-- ==== Sys2Proof/Word.lean ====
section
/-! DEFINITION. The word types of CORE: bytes, the 32-bit words of the digest and the cipher (00_scope.md R9) and the
64-bit words of the registers and the PRG (R13, R21). All values are unsigned (R15). -/

namespace Sys2Proof

/-- One byte of buffer RAM (10_state.md R51). -/
abbrev Byte := BitVec 8

/-- A word of the digest and of the cipher: 32 bits, `+` and `-` wrap (00_scope.md R9, R16). -/
abbrev Word32 := BitVec 32

/-- A register, a command word, a PRG value: 64 bits (10_state.md R21, 30_encoding.md R100, 00_scope.md R13). -/
abbrev Word64 := BitVec 64

end Sys2Proof
end

