-- ==== Sys2Proof/Syntax.lean ====
section
/-! DEFINITION. The commands of CORE, one constructor per row of spec/opcode_table.json (30_encoding.md R103). A command
word carries no operand, immediate or register number (R102), so no constructor has an argument. -/

namespace Sys2Proof

/-- The eleven commands (30_encoding.md R103). -/
inductive Instr where
  /-- 0x00, no work (43_system.md R230). -/
  | nop
  /-- 0x01, MD5 digest of a buffer range (40_digest.md R142). -/
  | digest
  /-- 0x08, key schedule to the buffer (41_cipher.md R167). -/
  | keyexp
  /-- 0x09, encrypt one block (41_cipher.md R168). -/
  | encblk
  /-- 0x0A, decrypt one block (41_cipher.md R169). -/
  | decblk
  /-- 0x0B, encrypt a buffer range in chained mode (41_cipher.md R173). -/
  | enccbc
  /-- 0x0C, decrypt a buffer range in chained mode (41_cipher.md R176). -/
  | deccbc
  /-- 0x10, construct a generator (42_prg.md R211). -/
  | prgload
  /-- 0x11, one generator step (42_prg.md R212). -/
  | prggen
  /-- 0x12, PRG_N generator steps (42_prg.md R213). -/
  | prggenn
  /-- 0x13, cycle length of a generator (42_prg.md R215). -/
  | prgperiod
  deriving DecidableEq, Repr

end Sys2Proof
end

