-- ==== Sys2Proof/WellFormed.lean ====
section
/-! DEFINITION. Well-formedness. A command word is well-formed when its opcode is in the opcode map and its reserved bits
are 0 (30_encoding.md R101, R105, R106). A command as syntax has no field, so nothing about it can be ill-formed (R102). -/

namespace Sys2Proof

/-- The eleven defined opcode values (30_encoding.md R104). -/
def definedOpcodes : List Byte :=
  [0x00#8, 0x01#8, 0x08#8, 0x09#8, 0x0A#8, 0x0B#8, 0x0C#8, 0x10#8, 0x11#8, 0x12#8, 0x13#8]

/-- Bits 7:0 of a word hold one of the eleven opcodes (30_encoding.md R103, R105). -/
def opcodeDefined (v : Word64) : Bool := definedOpcodes.contains (v.extractLsb' 0 8)

/-- Bits 63:8 of a word are 0 (30_encoding.md R101, R106). -/
def reservedClear (v : Word64) : Bool := v.extractLsb' 8 56 == 0#56

/-- A word that encodes a command (30_encoding.md R104). -/
def commandWordWf (v : Word64) : Bool := opcodeDefined v && reservedClear v

/-- A command has no operand field that could be out of range (30_encoding.md R102). -/
def Instr.wf : Instr → Bool
  | .nop => true
  | .digest => true
  | .keyexp => true
  | .encblk => true
  | .decblk => true
  | .enccbc => true
  | .deccbc => true
  | .prgload => true
  | .prggen => true
  | .prggenn => true
  | .prgperiod => true

end Sys2Proof
end

