-- ==== Sys2Proof/Decode.lean ====
section
/-! DEFINITION. Decoding and encoding of command words (30_encoding.md R100 to R106). The unit is the 64-bit word written
to CMD: there is no other length, no prefix and no mode that changes decoding (R100), and no byte of memory is ever
fetched (20_memory.md R88). -/

namespace Sys2Proof

/-- Why a word encodes no command: the two ILLEGAL_COMMAND causes (60_exceptions.md R243). -/
inductive DecodeError where
  /-- Bits 7:0 are no opcode of the map (30_encoding.md R105). -/
  | undefinedOpcode
  /-- A defined opcode with a bit of 63:8 set (30_encoding.md R106). -/
  | reservedBits
  deriving DecidableEq, Repr

/-- Field OPCODE, bits 7:0 (30_encoding.md R101). -/
def opcodeField (v : Word64) : Byte := v.extractLsb' 0 8

/-- Field RSVD, bits 63:8 (30_encoding.md R101). -/
def reservedField (v : Word64) : BitVec 56 := v.extractLsb' 8 56

/-- The opcode map (30_encoding.md R103), in the table's order. -/
def opcodeMap : List (Byte × Instr) :=
  [(0x00#8, .nop), (0x01#8, .digest), (0x08#8, .keyexp), (0x09#8, .encblk), (0x0A#8, .decblk), (0x0B#8, .enccbc),
   (0x0C#8, .deccbc), (0x10#8, .prgload), (0x11#8, .prggen), (0x12#8, .prggenn), (0x13#8, .prgperiod)]

/-- The command an opcode selects, if any (30_encoding.md R103). -/
def instrOfOpcode (op : Byte) : Option Instr := (opcodeMap.find? fun row => row.1 == op).map (·.2)

/-- Decode(v) of 30_encoding.md R104: total, the opcode test before the reserved-bits test. -/
def decode (v : Word64) : Except DecodeError Instr :=
  match instrOfOpcode (opcodeField v) with
  | none => .error .undefinedOpcode
  | some i => if reservedField v = 0#56 then .ok i else .error .reservedBits

/-- The OPCODE value of a command (30_encoding.md R103). -/
def Instr.opcode : Instr → Byte
  | .nop => 0x00#8
  | .digest => 0x01#8
  | .keyexp => 0x08#8
  | .encblk => 0x09#8
  | .decblk => 0x0A#8
  | .enccbc => 0x0B#8
  | .deccbc => 0x0C#8
  | .prgload => 0x10#8
  | .prggen => 0x11#8
  | .prggenn => 0x12#8
  | .prgperiod => 0x13#8

/-- The command word of a command: its OPCODE, RSVD = 0 (30_encoding.md R101, R103). -/
def encode (i : Instr) : Word64 := 0#56 ++ i.opcode

/-- The word whose bits the opcode table numbers as `w`, `nbits` of them given and every bit above them 0. A command is one
64-bit word (30_encoding.md R100), so no bit past 63 exists (log 17). -/
def tableWord (nbits w : Nat) : Word64 := BitVec.ofNat 64 (w % 2 ^ nbits)

/-- What the decoder reads from an instruction whose bits are `w`, as the opcode table numbers them. -/
def decodeTableWord (nbits w : Nat) : Option Instr :=
  match decode (tableWord nbits w) with
  | .ok i => some i
  | .error _ => none

end Sys2Proof
end

