-- ==== Sys2Proof/Machine/Bits.lean ====
section
/-! DEFINITION. Rotations and byte sequences (00_scope.md R17, R19). -/

namespace Sys2Proof.Machine

/-- rotl(x, n): the amount modulo 32, and 0 leaves the word unchanged (00_scope.md R17). -/
def rotl (x : Word32) (n : Nat) : Word32 :=
  let k := n % 32
  if k = 0 then x else (x <<< k) ||| (x >>> (32 - k))

/-- rotr(x, n): the amount modulo 32, and 0 leaves the word unchanged (00_scope.md R17). -/
def rotr (x : Word32) (n : Nat) : Word32 :=
  let k := n % 32
  if k = 0 then x else (x >>> k) ||| (x <<< (32 - k))

/-- The number whose bytes, least significant first, are `bs` (00_scope.md R19, 20_memory.md R73). -/
def leNat : List Byte → Nat
  | [] => 0
  | b :: bs => b.toNat + 256 * leNat bs

/-- LE32 of four bytes (00_scope.md R19). -/
def le32 (bs : List Byte) : Word32 := BitVec.ofNat 32 (leNat bs)

/-- LE64 of eight bytes, and the value of a narrower access zero-extended (00_scope.md R19, 20_memory.md R73). -/
def le64 (bs : List Byte) : Word64 := BitVec.ofNat 64 (leNat bs)

/-- The low `n` bytes of `v`, least significant first: byte `k` is `v[8k+7:8k]` (00_scope.md R19). -/
def bytesOf {w : Nat} (n : Nat) (v : BitVec w) : List Byte :=
  (List.range n).map fun k => v.extractLsb' (8 * k) 8

/-- bytes32(w) (00_scope.md R19). -/
def bytes32 (x : Word32) : List Byte := bytesOf 4 x

/-- bytes64(v) (00_scope.md R19). -/
def bytes64 (x : Word64) : List Byte := bytesOf 8 x

/-- `msg[i..i+n)` (00_scope.md R19). -/
def slice (msg : List Byte) (i n : Nat) : List Byte := (msg.drop i).take n

end Sys2Proof.Machine
end

