-- ==== Sys2Proof/Config.lean ====
section
/-! DEFINITION. What an implementation of CORE fixes, the platform's open parameters, and the free values: opaque
constants with no body, of which nothing can be proved but what holds of every value. -/

namespace Sys2Proof.Config

/-- Size of the buffer RAM in bytes, BUF_BYTES (00_scope.md R14). -/
def bufBytes : Nat := 65536

/-- Size of the bus window (20_memory.md R70, R71). -/
def windowBytes : Nat := 0x20000

/-- First window offset past the register window (20_memory.md R71). -/
def regWindowEnd : Nat := 0x1000

/-- First window offset of the buffer RAM (20_memory.md R71). -/
def bufWindowBase : Nat := 0x10000

/-- The constant value of the ID register (10_state.md R22). -/
def idWord : Word64 := 0x0000000145524F43#64

/-- What a buffer byte that no entry of the memory lists reads as. The spec gives the buffer no contents at power-on
(70_reset_and_hazards.md R281). DESIGN CHOICE, unsafe: log 5. -/
def unwrittenByte : Byte := 0#8

/-- The platform's choice of a base: CORE_BASE is a multiple of the window size (20_memory.md R72, D3). Open parameter of
the platform, kept free: log 12. -/
opaque coreBaseIndex : Nat

/-- CORE_BASE, aligned to 0x20000 bytes (20_memory.md R72). -/
def coreBase : Nat := windowBytes * coreBaseIndex

/-- CORE_IRQ_LINE, the platform's interrupt line (60_exceptions.md R256, D34). Open parameter, kept free: log 13. -/
opaque coreIrqLine : Nat

/-- Free bytes: of the buffer after power-on (70_reset_and_hazards.md R281, U1) and of the output range of an abandoned
command (R283, U3). The first argument is the draw, the second the buffer offset. Logs 6 and 7. -/
opaque freeByte : Nat → Nat → Byte

/-- Free word: the value of a buffer read while BUSY = 1 (70_reset_and_hazards.md R288, U2), cut to the access's width.
The argument is the draw. Log 8. -/
opaque freeWord : Nat → Word64

end Sys2Proof.Config
end

