-- ==== Sys2Proof/Machine/State.lean ====
section
/-! DEFINITION. The state of CORE as plain data, the reasons of an error response, and the state after reset.
INVENTORY.md lists every field with its rule. -/

namespace Sys2Proof.Machine

/-- The engine's phase, mirrored by STATUS.BUSY (10_state.md R55). -/
inductive Phase where
  | idle
  | busy
  deriving DecidableEq, Repr

/-- What a host access does: read, or write a value whose low bytes are used, as many as the access is wide
(43_system.md R231; log 17). -/
inductive AccessKind where
  | read
  | write (v : Word64)
  deriving DecidableEq, Repr

/-- One host bus transaction at bus address CORE_BASE + `off`, `width` bytes wide (43_system.md R231; log 12). -/
structure Access where
  off : Nat
  width : Nat
  kind : AccessKind
  deriving DecidableEq, Repr

/-- Whose turn it is: the host's with one access, the engine's, or the platform's with a power-on reset
(00_scope.md R20; 70_reset_and_hazards.md R280). Logs 1, 14 and 16. -/
inductive Turn where
  | host (a : Access)
  | engine
  | powerOn
  deriving DecidableEq, Repr

/-- Why CORE refuses a host access with an error response on the bus (20_memory.md R77; 60_exceptions.md R244; 93 U8, U9).
Each is a fault of the host agent, raised by its access alone and carried by `Response.error`; CORE does not stop for one,
so no step of the model ends in a fault (log 3). All are safe. -/
inductive Fault where
  /-- Window offset in the hole 0x01000 to 0x0FFFF (20_memory.md R71). Raised by any access. Safe. -/
  | unmapped (off : Nat)
  /-- A register access that is not 8 bytes wide and 8-byte aligned (20_memory.md R76). Safe. -/
  | badRegisterAccess (off width : Nat)
  /-- A buffer access that is not 1, 2, 4 or 8 bytes wide and naturally aligned (20_memory.md R75). Safe. -/
  | badBufferAccess (off width : Nat)
  deriving DecidableEq, Repr

/-- What CORE answered to the last host access: nothing yet, a write taken (or ignored or dropped, which the bus does not
tell apart), the data of a read, `width` bytes (43_system.md R232 to R235), an error response, which gives a read no data
(20_memory.md R77), or no answer of CORE's, at an address it does not decode (20_memory.md R71; log 12). Log 10. -/
inductive Response where
  | none
  | written
  | data (width : Nat) (v : Word64)
  | error (f : Fault)
  | elsewhere
  deriving DecidableEq, Repr

/-- Buffer RAM: (offset, byte) pairs, offsets strictly rising, none listed that equals `Config.unwrittenByte`, which every
unlisted byte reads as (10_state.md R51; log 5). -/
abbrev Memory := List Host.Cell

/-- The state of CORE (10_state.md R21 to R58), then the model's own fields `turns`, `resp` and `draws`. -/
structure State where
  /-- CTRL.IE, R23. -/
  ie : Bool
  /-- Engine phase and STATUS.BUSY, R24, R55. -/
  phase : Phase
  /-- STATUS.DONE, R24. -/
  done : Bool
  /-- STATUS.HAZ, R24. -/
  haz : Bool
  /-- CMD, the last accepted command word, R25. -/
  cmd : Word64
  /-- ERR.CODE, R26. -/
  errCode : Byte
  /-- ERR.CAUSE, R26. -/
  errCause : Byte
  /-- ERR_INFO, R27. -/
  errInfo : Word64
  /-- SRC_ADDR, R28. -/
  srcAddr : Word64
  /-- SRC_LEN, R29. -/
  srcLen : Word64
  /-- DST_ADDR, R30. -/
  dstAddr : Word64
  /-- KEY_ADDR, R31. -/
  keyAddr : Word64
  /-- CIPHER_CFG[15:0], R32. -/
  cipherCfg : BitVec 16
  /-- IV, R33. -/
  iv : Word64
  /-- BLK_A[31:0], R34. -/
  blkA : Word32
  /-- BLK_B[31:0], R35. -/
  blkB : Word32
  /-- PRG_A, R36. -/
  prgA : Word64
  /-- PRG_C, R37. -/
  prgC : Word64
  /-- PRG_M, R38. -/
  prgM : Word64
  /-- PRG_SEED, R39. -/
  prgSeed : Word64
  /-- PRG_N, R40. -/
  prgN : Word64
  /-- LCG_A, R41. -/
  lcgA : Word64
  /-- LCG_C, R42. -/
  lcgC : Word64
  /-- LCG_M, R43. -/
  lcgM : Word64
  /-- LCG_S, R44. -/
  lcgS : Word64
  /-- RESULT, R45. -/
  result : Word64
  /-- OUT_LEN, R46. -/
  outLen : Word64
  /-- DIGEST_LO, R47. -/
  digestLo : Word64
  /-- DIGEST_HI, R48. -/
  digestHi : Word64
  /-- BUF, R51. -/
  buf : Memory
  /-- The model's own: the turns still to come, in the order CORE sees them (log 1). -/
  turns : List Turn
  /-- The model's own: the response to the last host access (log 10). -/
  resp : Response
  /-- The model's own: how many free values have been drawn (log 9). -/
  draws : Nat
  deriving DecidableEq, Repr

/-- Why a step is refused. Nothing in this model refuses: every command has its meaning. -/
inductive Refusal where
  /-- Would be raised by an arm of exec that has no meaning yet; no arm does. Safe. -/
  | notModelled (mnemonic : String)
  deriving DecidableEq, Repr

/-- Power-on reset: every register 0 (ID is a constant), IDLE, nothing latched (70_reset_and_hazards.md R280, R284). The
spec gives the buffer no contents (R281): nothing is listed (log 5). No turn is waiting, nothing has been answered and no
free value drawn (logs 1, 9, 10). -/
def State.reset : State where
  ie := false
  phase := .idle
  done := false
  haz := false
  cmd := 0#64
  errCode := 0#8
  errCause := 0#8
  errInfo := 0#64
  srcAddr := 0#64
  srcLen := 0#64
  dstAddr := 0#64
  keyAddr := 0#64
  cipherCfg := 0#16
  iv := 0#64
  blkA := 0#32
  blkB := 0#32
  prgA := 0#64
  prgC := 0#64
  prgM := 0#64
  prgSeed := 0#64
  prgN := 0#64
  lcgA := 0#64
  lcgC := 0#64
  lcgM := 0#64
  lcgS := 0#64
  result := 0#64
  outLen := 0#64
  digestLo := 0#64
  digestHi := 0#64
  buf := []
  turns := []
  resp := .none
  draws := 0

end Sys2Proof.Machine
end

