-- ==== Sys2Proof/Machine/Ops.lean ====
section
/-! DEFINITION. The shared operations of CORE: reading and writing the buffer RAM, reporting an error (the one way a command
takes an exception), completing and accepting a command, acknowledging a completion, and drawing free values. -/

namespace Sys2Proof.Machine

/-! ## Buffer RAM -/

/-- The canonical form: offsets strictly rising, each inside the buffer, no entry that equals what an unlisted byte reads
as. Equal buffers are then equal lists. -/
abbrev Memory.wf (m : Memory) : Prop :=
  m.Pairwise (fun c d => c.1 < d.1) ∧ ∀ c ∈ m, c.1 < Config.bufBytes ∧ c.2 ≠ Config.unwrittenByte

/-- BUF[a] (10_state.md R51). -/
def Memory.read : Memory → Nat → Byte
  | [], _ => Config.unwrittenByte
  | (x, b) :: m, a => if a = x then b else Memory.read m a

/-- The list with the entry of offset `a` set to `b`, and no entry where `b` is what an unlisted byte reads as. -/
def Memory.set : Memory → Nat → Byte → Memory
  | [], a, b => if b = Config.unwrittenByte then [] else [(a, b)]
  | (x, y) :: m, a, b =>
    if a < x then (if b = Config.unwrittenByte then (x, y) :: m else (a, b) :: (x, y) :: m)
    else if a = x then (if b = Config.unwrittenByte then m else (a, b) :: m)
    else (x, y) :: Memory.set m a b

/-- BUF[a] <- b. There is no byte past the buffer's end (00_scope.md R14): no rule writes there, and nothing happens. -/
def Memory.write (m : Memory) (a : Nat) (b : Byte) : Memory :=
  if a < Config.bufBytes then Memory.set m a b else m

/-- BufRead(off, n) (20_memory.md R81). -/
def bufRead (m : Memory) (off n : Nat) : List Byte := (List.range n).map fun k => Memory.read m (off + k)

/-- BufWrite(off, bs): BUF[off+k] <- bs[k] for each k (20_memory.md R81). -/
def bufWrite : Memory → Nat → List Byte → Memory
  | m, _, [] => m
  | m, off, b :: bs => bufWrite (Memory.write m off b) (off + 1) bs

/-! ## Free values -/

/-- `n` free bytes for the offsets from `off` on, of draw `d` (70_reset_and_hazards.md R281, R283). -/
def freeBytes (d off n : Nat) : List Byte := (List.range n).map fun k => Config.freeByte d (off + k)

/-- Every byte of BUF[off..off+n) inside the buffer takes a free value of draw `d`; the others keep theirs. -/
def bufScramble (m : Memory) (d off n : Nat) : Memory :=
  let n := min n (Config.bufBytes - off)
  bufWrite m off (freeBytes d off n)

/-- The buffer after power-on: every byte a free value of draw `d` (70_reset_and_hazards.md R281). -/
@[irreducible] def powerOnBuffer (d : Nat) : Memory := bufScramble [] d 0 Config.bufBytes

/-- A free value of `n` bytes, zero-extended, of draw `d` (70_reset_and_hazards.md R288). -/
def freeValue (d n : Nat) : Word64 := le64 (bytesOf n (Config.freeWord d))

/-! ## Errors -/

/-- The error conditions (60_exceptions.md R242, R243). -/
inductive Cause where
  | roundsZero
  | keylenZero
  | keylenNotMult4
  | keyRange
  | srcRange
  | ctLenNotMult8
  | dstRange
  | overlap
  | modulusZero
  | undefinedOpcode
  | reservedBits
  deriving DecidableEq, Repr

/-- ERR.CODE of a condition: 1 MALFORMED_INPUT, 2 ILLEGAL_COMMAND (60_exceptions.md R241). -/
def causeCode : Cause → Byte
  | .undefinedOpcode => 2#8
  | .reservedBits => 2#8
  | .roundsZero => 1#8
  | .keylenZero => 1#8
  | .keylenNotMult4 => 1#8
  | .keyRange => 1#8
  | .srcRange => 1#8
  | .ctLenNotMult8 => 1#8
  | .dstRange => 1#8
  | .overlap => 1#8
  | .modulusZero => 1#8

/-- ERR.CAUSE of a condition (60_exceptions.md R242, R243). -/
def causeNumber : Cause → Byte
  | .roundsZero => 1#8
  | .keylenZero => 2#8
  | .keylenNotMult4 => 3#8
  | .keyRange => 4#8
  | .srcRange => 5#8
  | .ctLenNotMult8 => 6#8
  | .dstRange => 7#8
  | .overlap => 8#8
  | .modulusZero => 9#8
  | .undefinedOpcode => 1#8
  | .reservedBits => 2#8

/-- `raise E/CAUSE(info)` (00_scope.md R19, 60_exceptions.md R248). -/
structure Raise where
  cause : Cause
  info : Word64
  deriving DecidableEq, Repr

/-- One test of a command's operands: whether its error condition holds, and what it then raises. -/
structure Check where
  fails : Bool
  error : Raise
  deriving DecidableEq, Repr

/-- The one error a command reports: the first condition that holds (60_exceptions.md R246). -/
def firstError : List Check → Option Raise
  | [] => none
  | c :: cs => if c.fails then some c.error else firstError cs

/-! ## The command lifecycle -/

/-- Acceptance of the command word `v` (60_exceptions.md R251). HAZ is not changed. The operands need no copy: while BUSY
nothing changes them (10_state.md R55; log 4). -/
def State.accept (s : State) (v : Word64) : State :=
  { s with cmd := v, phase := .busy, done := false, errCode := 0#8, errCause := 0#8, errInfo := 0#64 }

/-- The report of an error: ERR.CODE, ERR.CAUSE and ERR_INFO, and nothing else (60_exceptions.md R248). -/
def State.report (s : State) (e : Raise) : State :=
  { s with errCode := causeCode e.cause, errCause := causeNumber e.cause, errInfo := e.info }

/-- The end of a command: BUSY <- 0, DONE <- 1 (60_exceptions.md R252). -/
def State.finish (s : State) : State :=
  { s with phase := .idle, done := true }

/-- Taking an exception: the command ends with the error reported and none of its effects (60_exceptions.md R248). -/
def errorCompletion (e : Raise) (s : State) : State := (s.report e).finish

/-- The command ends: `t` is the state with all of its effects (60_exceptions.md R250). -/
def successCompletion (t : State) : State := t.finish

/-- Complete() for a decoded command: its tests in order, then its effects together (60_exceptions.md R246, R249, R252).
`effect` does the command's buffer and register writes. -/
def completeCommand (checks : List Check) (effect : State → State) (s : State) : Host.Outcome State Fault Refusal :=
  match firstError checks with
  | some e => .next (errorCompletion e s)
  | none => .next (successCompletion (effect s))

/-- The return from a completion: the host acknowledges DONE (60_exceptions.md R253). No state is restored. -/
def State.acknowledge (s : State) : State := { s with done := false }

/-- A hazard: STATUS.HAZ is set and nothing else changes (60_exceptions.md R245). The machine goes on: log 18. -/
def State.hazard (s : State) : State := { s with haz := true }

/-- CORE's answer to a host access (log 10). -/
def State.respond (s : State) (r : Response) : State := { s with resp := r }

end Sys2Proof.Machine
end

