-- ==== Sys2Proof/Machine/Operands.lean ====
section
/-! DEFINITION. How a command decodes its operands from the registers (30_encoding.md R102), the range and overlap checks
(20_memory.md R82, R83), the tests shared by the commands, and each command's output range (10_state.md R46). -/

namespace Sys2Proof.Machine

/-- The round count `r`, CIPHER_CFG[7:0] (30_encoding.md R102). -/
def cfgRounds (s : State) : Nat := (s.cipherCfg.extractLsb' 0 8).toNat

/-- The key length `b` in bytes, CIPHER_CFG[15:8] (30_encoding.md R102). -/
def cfgKeyLen (s : State) : Nat := (s.cipherCfg.extractLsb' 8 8).toNat

/-- The number of schedule words `t = 2*(r+1)` (00_scope.md R12). -/
def schedWords (r : Nat) : Nat := 2 * (r + 1)

/-- The source offset and length as unbounded integers (30_encoding.md R102). -/
def srcOff (s : State) : Nat := s.srcAddr.toNat

/-- The source length `L` (30_encoding.md R102). -/
def srcLength (s : State) : Nat := s.srcLen.toNat

/-- The destination offset (30_encoding.md R102). -/
def dstOff (s : State) : Nat := s.dstAddr.toNat

/-- The key offset (30_encoding.md R102). -/
def keyOff (s : State) : Nat := s.keyAddr.toNat

/-- The source byte sequence BufRead(SRC_ADDR, SRC_LEN) (30_encoding.md R102, 20_memory.md R81). -/
def srcBytes (s : State) : List Byte := bufRead s.buf (srcOff s) (srcLength s)

/-- The key bytes K[0..b-1] (41_cipher.md R160). -/
def keyBytes (s : State) : List Byte := bufRead s.buf (keyOff s) (cfgKeyLen s)

/-- InRange(base, len): the sum is exact, with no wrap-around (20_memory.md R82). -/
def inRange (base len : Nat) : Bool := decide (base + len ≤ Config.bufBytes)

/-- Overlap((b1, n1), (b2, n2)): both non-empty and sharing a byte (20_memory.md R83). -/
def overlaps (b1 n1 b2 n2 : Nat) : Bool := decide (0 < n1 ∧ 0 < n2 ∧ b1 < b2 + n2 ∧ b2 < b1 + n1)

/-- The output length of ENCCBC for `L` source bytes (10_state.md R46). -/
def encCbcLen (l : Nat) : Nat := 16 + 8 * (l / 8)

/-- The output length of DECCBC for `L` source bytes, max(L-8, 0) (10_state.md R46). -/
def decCbcLen (l : Nat) : Nat := l - 8

/-- The number of bytes a command writes at DST_ADDR (10_state.md R46, 60_exceptions.md R247): none for the block and PRG
commands and NOP. -/
def outputLength (i : Instr) (s : State) : Nat :=
  match i with
  | .nop => 0
  | .digest => 16
  | .keyexp => 4 * schedWords (cfgRounds s)
  | .encblk => 0
  | .decblk => 0
  | .enccbc => encCbcLen (srcLength s)
  | .deccbc => decCbcLen (srcLength s)
  | .prgload => 0
  | .prggen => 0
  | .prggenn => 0
  | .prgperiod => 0

/-- CipherCheck: the four tests every cipher command begins with (41_cipher.md R160). -/
def cipherChecks (s : State) : List Check :=
  [ ⟨cfgRounds s == 0, .roundsZero, s.cipherCfg.setWidth 64⟩,
    ⟨cfgKeyLen s == 0, .keylenZero, s.cipherCfg.setWidth 64⟩,
    ⟨cfgKeyLen s % 4 != 0, .keylenNotMult4, s.cipherCfg.setWidth 64⟩,
    ⟨!inRange (keyOff s) (cfgKeyLen s), .keyRange, s.keyAddr⟩ ]

/-- SRC_RANGE (60_exceptions.md R242). -/
def srcRangeCheck (s : State) : Check := ⟨!inRange (srcOff s) (srcLength s), .srcRange, s.srcAddr⟩

/-- CT_LEN_NOT_MULT8 (60_exceptions.md R242). -/
def ctLenCheck (s : State) : Check := ⟨srcLength s % 8 != 0, .ctLenNotMult8, s.srcLen⟩

/-- DST_RANGE for an output of `n` bytes (60_exceptions.md R242). -/
def dstRangeCheck (n : Nat) (s : State) : Check := ⟨!inRange (dstOff s) n, .dstRange, s.dstAddr⟩

/-- OVERLAP of an output of `n` bytes with the source (60_exceptions.md R247). -/
def srcOverlapCheck (n : Nat) (s : State) : Check :=
  ⟨overlaps (dstOff s) n (srcOff s) (srcLength s), .overlap, s.dstAddr⟩

/-- OVERLAP of an output of `n` bytes with the key (60_exceptions.md R247). -/
def keyOverlapCheck (n : Nat) (s : State) : Check :=
  ⟨overlaps (dstOff s) n (keyOff s) (cfgKeyLen s), .overlap, s.dstAddr⟩

/-- MODULUS_ZERO on a modulus `m` (60_exceptions.md R242). -/
def modulusCheck (m : Word64) : Check := ⟨m == 0#64, .modulusZero, 0#64⟩

/-- The tests of each command, in the order of 60_exceptions.md R246 (40_digest.md R142; 41_cipher.md R167 to R176;
42_prg.md R211 to R215). -/
def commandChecks (i : Instr) (s : State) : List Check :=
  match i with
  | .nop => []
  | .digest => [srcRangeCheck s, dstRangeCheck 16 s, srcOverlapCheck 16 s]
  | .keyexp =>
    cipherChecks s ++ [dstRangeCheck (outputLength .keyexp s) s, keyOverlapCheck (outputLength .keyexp s) s]
  | .encblk => cipherChecks s
  | .decblk => cipherChecks s
  | .enccbc =>
    cipherChecks s ++ [srcRangeCheck s, dstRangeCheck (outputLength .enccbc s) s,
      srcOverlapCheck (outputLength .enccbc s) s, keyOverlapCheck (outputLength .enccbc s) s]
  | .deccbc =>
    cipherChecks s ++ [srcRangeCheck s, ctLenCheck s, dstRangeCheck (outputLength .deccbc s) s,
      srcOverlapCheck (outputLength .deccbc s) s, keyOverlapCheck (outputLength .deccbc s) s]
  | .prgload => [modulusCheck s.prgM]
  | .prggen => [modulusCheck s.lcgM]
  | .prggenn => [modulusCheck s.lcgM]
  | .prgperiod => [modulusCheck s.prgM]

end Sys2Proof.Machine
end

