-- ==== Sys2Proof/Machine/Cipher.lean ====
section
/-! DEFINITION. The block-cipher engine and the commands KEYEXP, ENCBLK, DECBLK, ENCCBC and DECCBC (41_cipher.md). -/

namespace Sys2Proof.Machine

/-! ## Key schedule -/

/-- The key words L[0..c-1], c = b/4, of the key bytes: from index b-2 down to 0, the byte at b-1 is left out
(41_cipher.md R161). -/
def foldKey (key : List Byte) : List Word32 :=
  (List.range (key.length - 1)).reverse.foldl
    (fun l i => l.set (i / 4) (rotl (l.getD (i / 4) 0#32) 8 + (key.getD i 0#8).setWidth 32))
    (List.replicate (key.length / 4) 0#32)

/-- The word S[0] before mixing (41_cipher.md R162). -/
def schedSeed : Word32 := 0xb7e15163#32

/-- The step from S[i-1] to S[i] before mixing (41_cipher.md R162). -/
def schedStep : Word32 := 0x9e3779b9#32

/-- `n` words from `x` on, each `schedStep` more than the one before. -/
def schedFrom : Nat → Word32 → List Word32
  | 0, _ => []
  | n + 1, x => x :: schedFrom n (x + schedStep)

/-- S[0..t-1] before mixing (41_cipher.md R162). -/
def schedInit (t : Nat) : List Word32 := schedFrom t schedSeed

/-- The arrays, accumulators and cursors of the key mixing (41_cipher.md R163). -/
structure MixState where
  S : List Word32
  L : List Word32
  A : Word32
  B : Word32
  i : Nat
  j : Nat
  deriving DecidableEq, Repr

/-- One iteration of the key mixing (41_cipher.md R163). -/
def mixStep (t c : Nat) (m : MixState) : MixState :=
  let a := rotl (m.S.getD m.i 0#32 + m.A + m.B) 3
  let b := rotl (m.L.getD m.j 0#32 + a + m.B) (a + m.B).toNat
  ⟨m.S.set m.i a, m.L.set m.j b, a, b, (m.i + 1) % t, (m.j + 1) % c⟩

/-- `n` iterations of the key mixing. -/
def mixSteps (t c : Nat) : Nat → MixState → MixState
  | 0, m => m
  | n + 1, m => mixSteps t c n (mixStep t c m)

/-- ExpandKey(K, r): fold, initialise, mix for 3*max(t, c) iterations (41_cipher.md R163, R164). -/
def expandKey (key : List Byte) (r : Nat) : List Word32 :=
  let t := schedWords r
  let c := key.length / 4
  (mixSteps t c (3 * max t c) ⟨schedInit t, foldKey key, 0#32, 0#32, 0, 0⟩).S

/-! ## Single blocks -/

/-- A word pair (A, B) (41_cipher.md R165). -/
structure WordPair where
  a : Word32
  b : Word32
  deriving DecidableEq, Repr

/-- Word-for-word exclusive or (41_cipher.md R172). -/
def pairXor (p q : WordPair) : WordPair := ⟨p.a ^^^ q.a, p.b ^^^ q.b⟩

/-- Round `i` of encryption; the second line uses the new A (41_cipher.md R165). -/
def encRound (S : List Word32) (p : WordPair) (i : Nat) : WordPair :=
  let a := rotl (p.a ^^^ p.b) p.b.toNat + S.getD (2 * i) 0#32
  let b := rotl (p.b ^^^ a) a.toNat + S.getD (2 * i + 1) 0#32
  ⟨a, b⟩

/-- EncryptBlock: rounds 1 to r inclusive (41_cipher.md R165; C5). -/
def encryptBlock (S : List Word32) (r : Nat) (p : WordPair) : WordPair :=
  (List.range r).foldl (fun q k => encRound S q (k + 1)) ⟨p.a + S.getD 0 0#32, p.b + S.getD 1 0#32⟩

/-- Round `i` of decryption; the second line uses the new B (41_cipher.md R166). -/
def decRound (S : List Word32) (p : WordPair) (i : Nat) : WordPair :=
  let b := rotr (p.b - S.getD (2 * i + 1) 0#32) p.a.toNat ^^^ p.a
  let a := rotr (p.a - S.getD (2 * i) 0#32) b.toNat ^^^ b
  ⟨a, b⟩

/-- DecryptBlock: rounds r down to 1 (41_cipher.md R166). -/
def decryptBlock (S : List Word32) (r : Nat) (p : WordPair) : WordPair :=
  let q := (List.range r).reverse.foldl (fun q k => decRound S q (k + 1)) p
  ⟨q.a - S.getD 0 0#32, q.b - S.getD 1 0#32⟩

/-! ## Chained mode -/

/-- The pad bytes of a plaintext of `l` bytes: n = 8 - (l mod 8) bytes of value n (41_cipher.md R170). -/
def cbcPad (l : Nat) : List Byte := List.replicate (8 - l % 8) (BitVec.ofNat 8 (8 - l % 8))

/-- In = bytes64(IV) || pt || pad (41_cipher.md R171). -/
def cbcInput (iv : Word64) (pt : List Byte) : List Byte := bytes64 iv ++ pt ++ cbcPad pt.length

/-- Block `k` of an encryption input, its two words swapped (41_cipher.md R171). -/
def swappedBlock (input : List Byte) (k : Nat) : WordPair :=
  ⟨le32 (slice input (8 * k + 4) 4), le32 (slice input (8 * k) 4)⟩

/-- Block `k` of a ciphertext, in natural order (41_cipher.md R174). -/
def naturalBlock (ct : List Byte) (k : Nat) : WordPair :=
  ⟨le32 (slice ct (8 * k) 4), le32 (slice ct (8 * k + 4) 4)⟩

/-- The bytes of a ciphertext block, natural order (41_cipher.md R172). -/
def naturalBytes (p : WordPair) : List Byte := bytes32 p.a ++ bytes32 p.b

/-- The bytes of a recovered plaintext block, words swapped (41_cipher.md R175). -/
def swappedBytes (p : WordPair) : List Byte := bytes32 p.b ++ bytes32 p.a

/-- The ciphertext blocks of the input blocks, the last ciphertext block being the chain value (41_cipher.md R172). -/
def encChainBlocks (S : List Word32) (r : Nat) : WordPair → List WordPair → List WordPair
  | _, [] => []
  | chain, p :: ps =>
    let c := encryptBlock S r (pairXor p chain)
    c :: encChainBlocks S r c ps

/-- EncChain(IV, pt, S, r): `N = floor(L/8) + 2` blocks, all-zero initial chain value (41_cipher.md R171, R172). -/
def encChain (S : List Word32) (r : Nat) (iv : Word64) (pt : List Byte) : List Byte :=
  let blocks := (List.range (pt.length / 8 + 2)).map (swappedBlock (cbcInput iv pt))
  (encChainBlocks S r ⟨0#32, 0#32⟩ blocks).flatMap naturalBytes

/-- The recovered pairs of the ciphertext blocks, the raw ciphertext block being the next chain value (41_cipher.md R174). -/
def decChainBlocks (S : List Word32) (r : Nat) : WordPair → List WordPair → List WordPair
  | _, [] => []
  | chain, c :: cs => pairXor (decryptBlock S r c) chain :: decChainBlocks S r c cs

/-- DecChain(ct, S, r): the first recovered block is dropped, padding is kept (41_cipher.md R174, R175). -/
def decChain (S : List Word32) (r : Nat) (ct : List Byte) : List Byte :=
  let blocks := (List.range (ct.length / 8)).map (naturalBlock ct)
  (decChainBlocks S r ⟨0#32, 0#32⟩ blocks).tail.flatMap swappedBytes

/-! ## The commands -/

/-- The schedule of the key and round count the registers name (41_cipher.md R160, R164). -/
def stateSchedule (s : State) : List Word32 := expandKey (keyBytes s) (cfgRounds s)

/-- What KEYEXP writes when no test fails (41_cipher.md R167). -/
def keyexpEffect (s : State) : State :=
  { s with
    buf := bufWrite s.buf (dstOff s) ((stateSchedule s).flatMap bytes32)
    outLen := BitVec.ofNat 64 (outputLength .keyexp s) }

/-- KEYEXP (41_cipher.md R167). -/
def execKeyexp (s : State) : Host.Outcome State Fault Refusal :=
  completeCommand (commandChecks .keyexp s) keyexpEffect s

/-- What ENCBLK writes when no test fails (41_cipher.md R168). -/
def encblkEffect (s : State) : State :=
  let p := encryptBlock (stateSchedule s) (cfgRounds s) ⟨s.blkA, s.blkB⟩
  { s with blkA := p.a, blkB := p.b }

/-- ENCBLK (41_cipher.md R168). -/
def execEncblk (s : State) : Host.Outcome State Fault Refusal :=
  completeCommand (commandChecks .encblk s) encblkEffect s

/-- What DECBLK writes when no test fails (41_cipher.md R169). -/
def decblkEffect (s : State) : State :=
  let p := decryptBlock (stateSchedule s) (cfgRounds s) ⟨s.blkA, s.blkB⟩
  { s with blkA := p.a, blkB := p.b }

/-- DECBLK (41_cipher.md R169). -/
def execDecblk (s : State) : Host.Outcome State Fault Refusal :=
  completeCommand (commandChecks .decblk s) decblkEffect s

/-- What ENCCBC writes when no test fails (41_cipher.md R173). -/
def enccbcEffect (s : State) : State :=
  { s with
    buf := bufWrite s.buf (dstOff s) (encChain (stateSchedule s) (cfgRounds s) s.iv (srcBytes s))
    outLen := BitVec.ofNat 64 (outputLength .enccbc s) }

/-- ENCCBC (41_cipher.md R173). -/
def execEnccbc (s : State) : Host.Outcome State Fault Refusal :=
  completeCommand (commandChecks .enccbc s) enccbcEffect s

/-- What DECCBC writes when no test fails (41_cipher.md R176). -/
def deccbcEffect (s : State) : State :=
  { s with
    buf := bufWrite s.buf (dstOff s) (decChain (stateSchedule s) (cfgRounds s) (srcBytes s))
    outLen := BitVec.ofNat 64 (outputLength .deccbc s) }

/-- DECCBC (41_cipher.md R176). -/
def execDeccbc (s : State) : Host.Outcome State Fault Refusal :=
  completeCommand (commandChecks .deccbc s) deccbcEffect s

end Sys2Proof.Machine
end

