-- ==== Sys2Proof/Machine/Digest.lean ====
section
/-! DEFINITION. The digest engine and the command DIGEST (40_digest.md). -/

namespace Sys2Proof.Machine

/-! ## The tables -/

/-- T[0..15] (40_digest.md R139). -/
def additiveConstants1 : List Word32 :=
  [0xd76aa478#32, 0xe8c7b756#32, 0x242070db#32, 0xc1bdceee#32, 0xf57c0faf#32, 0x4787c62a#32,
   0xa8304613#32, 0xfd469501#32, 0x698098d8#32, 0x8b44f7af#32, 0xffff5bb1#32, 0x895cd7be#32,
   0x6b901122#32, 0xfd987193#32, 0xa679438e#32, 0x49b40821#32]

/-- T[16..31] (40_digest.md R139). -/
def additiveConstants2 : List Word32 :=
  [0xf61e2562#32, 0xc040b340#32, 0x265e5a51#32, 0xe9b6c7aa#32, 0xd62f105d#32, 0x02441453#32,
   0xd8a1e681#32, 0xe7d3fbc8#32, 0x21e1cde6#32, 0xc33707d6#32, 0xf4d50d87#32, 0x455a14ed#32,
   0xa9e3e905#32, 0xfcefa3f8#32, 0x676f02d9#32, 0x8d2a4c8a#32]

/-- T[32..47] (40_digest.md R139). -/
def additiveConstants3 : List Word32 :=
  [0xfffa3942#32, 0x8771f681#32, 0x6d9d6122#32, 0xfde5380c#32, 0xa4beea44#32, 0x4bdecfa9#32,
   0xf6bb4b60#32, 0xbebfbc70#32, 0x289b7ec6#32, 0xeaa127fa#32, 0xd4ef3085#32, 0x04881d05#32,
   0xd9d4d039#32, 0xe6db99e5#32, 0x1fa27cf8#32, 0xc4ac5665#32]

/-- T[48..63] (40_digest.md R139). -/
def additiveConstants4 : List Word32 :=
  [0xf4292244#32, 0x432aff97#32, 0xab9423a7#32, 0xfc93a039#32, 0x655b59c3#32, 0x8f0ccc92#32,
   0xffeff47d#32, 0x85845dd1#32, 0x6fa87e4f#32, 0xfe2ce6e0#32, 0xa3014314#32, 0x4e0811a1#32,
   0xf7537e82#32, 0xbd3af235#32, 0x2ad7d2bb#32, 0xeb86d391#32]

/-- T[0..63], the additive constants (40_digest.md R139). -/
def additiveConstants : List Word32 :=
  additiveConstants1 ++ additiveConstants2 ++ additiveConstants3 ++ additiveConstants4

/-- k(i), the index of the message word sub-round `i` uses (40_digest.md R137). -/
def wordIndex (i : Nat) : Nat :=
  if i < 16 then i
  else if i < 32 then (5 * i + 1) % 16
  else if i < 48 then (3 * i + 5) % 16
  else (7 * i) % 16

/-- The rotation amounts, a row per group, a column per `i mod 4` (40_digest.md R138). -/
def rotationTable : List (List Nat) :=
  [[7, 12, 17, 22], [5, 9, 14, 20], [4, 11, 16, 23], [6, 10, 15, 21]]

/-- s(i), the rotation amount of sub-round `i` (40_digest.md R138). -/
def rotationAmount (i : Nat) : Nat := (rotationTable.getD (i / 16) []).getD (i % 4) 0

/-! ## The digest function -/

/-- F (40_digest.md R135). -/
def mixF (x y z : Word32) : Word32 := (x &&& y) ||| (~~~x &&& z)

/-- G (40_digest.md R135). -/
def mixG (x y z : Word32) : Word32 := (x &&& z) ||| (y &&& ~~~z)

/-- H (40_digest.md R135). -/
def mixH (x y z : Word32) : Word32 := x ^^^ y ^^^ z

/-- I (40_digest.md R135). -/
def mixI (x y z : Word32) : Word32 := y ^^^ (x ||| ~~~z)

/-- FUNC(i): F, G, H, I for the groups `i div 16` = 0, 1, 2, 3 (40_digest.md R135, R136). -/
def mixFunction (i : Nat) : Word32 → Word32 → Word32 → Word32 :=
  match i / 16 with
  | 0 => mixF
  | 1 => mixG
  | 2 => mixH
  | _ => mixI

/-- Four state words: H0..H3, or the working words a, b, c, d (40_digest.md R134, R136). -/
structure DigestWords where
  a : Word32
  b : Word32
  c : Word32
  d : Word32
  deriving DecidableEq, Repr

/-- The initial state words (40_digest.md R134). -/
def digestInit : DigestWords := ⟨0x67452301#32, 0xefcdab89#32, 0x98badcfe#32, 0x10325476#32⟩

/-- Sub-round `i` on the message words `X` (40_digest.md R136). -/
def subRound (X : List Word32) (w : DigestWords) (i : Nat) : DigestWords :=
  let tmp := w.a + mixFunction i w.b w.c w.d + X.getD (wordIndex i) 0#32 + additiveConstants.getD i 0#32
  ⟨w.d, w.b + rotl tmp (rotationAmount i), w.b, w.c⟩

/-- Compress: 64 sub-rounds, then the feed-forward of the entry state (40_digest.md R136, R140). -/
def compress (h : DigestWords) (X : List Word32) : DigestWords :=
  let w := (List.range 64).foldl (subRound X) h
  ⟨h.a + w.a, h.b + w.b, h.c + w.c, h.d + w.d⟩

/-- The number of zero bytes of the padding, `z = (55 - L) mod 64` (40_digest.md R131). -/
def padZeros (l : Nat) : Nat := ((55 - (l : Int)) % 64).toNat

/-- LenField(L), the bit length in eight bytes (40_digest.md R132). -/
def lenField (l : Nat) : List Byte := bytes64 (BitVec.ofNat 64 (8 * l))

/-- Pad(msg) (40_digest.md R131). -/
def digestPad (msg : List Byte) : List Byte :=
  msg ++ [0x80#8] ++ List.replicate (padZeros msg.length) 0x00#8 ++ lenField msg.length

/-- ParseBlock: sixteen little-endian words (40_digest.md R133). -/
def parseBlock (block : List Byte) : List Word32 := (List.range 16).map fun k => le32 (slice block (4 * k) 4)

/-- The state words after the first `n` blocks of the padded message `p` (40_digest.md R130). -/
def digestBlocks (p : List Byte) (n : Nat) : DigestWords :=
  (List.range n).foldl (fun h j => compress h (parseBlock (slice p (64 * j) 64))) digestInit

/-- The output bytes of four state words (40_digest.md R141). -/
def serializeDigest (h : DigestWords) : List Byte := bytes32 h.a ++ bytes32 h.b ++ bytes32 h.c ++ bytes32 h.d

/-- Digest16(msg) (40_digest.md R130). -/
def digest16 (msg : List Byte) : List Byte :=
  serializeDigest (digestBlocks (digestPad msg) ((digestPad msg).length / 64))

/-! ## The command -/

/-- What DIGEST writes when no test fails (40_digest.md R142). -/
def digestEffect (s : State) : State :=
  let d := digest16 (srcBytes s)
  { s with
    buf := bufWrite s.buf (dstOff s) d
    digestLo := le64 (slice d 0 8)
    digestHi := le64 (slice d 8 8)
    outLen := 16#64 }

/-- DIGEST (40_digest.md R142). -/
def execDigest (s : State) : Host.Outcome State Fault Refusal :=
  completeCommand (commandChecks .digest s) digestEffect s

end Sys2Proof.Machine
end

