-- ==== Sys2Proof/Machine/Prg.lean ====
section
/-! DEFINITION. The pseudo-random generator and the commands PRGLOAD, PRGGEN, PRGGENN and PRGPERIOD (42_prg.md). -/

namespace Sys2Proof.Machine

/-- The step g(s) = (a*s + c) mod m, exact (42_prg.md R210, 00_scope.md R18). -/
def lcgNext (a c m s : Word64) : Word64 := BitVec.ofNat 64 ((a.toNat * s.toNat + c.toNat) % m.toNat)

/-- `n` steps from `s` (42_prg.md R213). -/
def lcgSteps (a c m : Word64) : Nat → Word64 → Word64
  | 0, s => s
  | n + 1, s => lcgSteps a c m n (lcgNext a c m s)

/-- Phase 1 of Floyd's detection: the value at which slow and fast meet, the test after the step. The loop ends within
`fuel` iterations by 42_prg.md R216 (log 15), so the answer at fuel 0 is never used. -/
def floydMeet (a c m : Word64) : Nat → Word64 → Word64 → Word64
  | 0, slow, _ => slow
  | fuel + 1, slow, fast =>
    let slow' := lcgNext a c m slow
    let fast' := lcgNext a c m (lcgNext a c m fast)
    if slow' = fast' then slow' else floydMeet a c m fuel slow' fast'

/-- Phase 2 of Floyd's detection: the count of single steps of fast until it equals slow again, the test after the step. The
loop ends within `fuel` iterations by 42_prg.md R216 (log 15), so the answer at fuel 0 is never used. -/
def floydCount (a c m slow : Word64) : Nat → Word64 → Nat → Nat
  | 0, _, count => count
  | fuel + 1, fast, count =>
    let fast' := lcgNext a c m fast
    if fast' = slow then count + 1 else floydCount a c m slow fuel fast' (count + 1)

/-- Period(a, c, m, s) (42_prg.md R214). Phase 1 takes at most tail + cycle iterations, which is at most m + 1, and phase 2
takes the cycle length, which is at most m (R216; log 15). -/
def lcgPeriod (a c m s : Word64) : Nat :=
  let slow := floydMeet a c m (m.toNat + 1) s s
  floydCount a c m slow m.toNat slow 0

/-- What PRGLOAD writes when no test fails (42_prg.md R211). -/
def prgloadEffect (s : State) : State :=
  { s with lcgA := s.prgA, lcgC := s.prgC, lcgM := s.prgM, lcgS := s.prgSeed }

/-- PRGLOAD (42_prg.md R211). -/
def execPrgload (s : State) : Host.Outcome State Fault Refusal :=
  completeCommand (commandChecks .prgload s) prgloadEffect s

/-- What PRGGEN writes when no test fails (42_prg.md R212). -/
def prggenEffect (s : State) : State :=
  let x := lcgNext s.lcgA s.lcgC s.lcgM s.lcgS
  { s with lcgS := x, result := x }

/-- PRGGEN (42_prg.md R212). -/
def execPrggen (s : State) : Host.Outcome State Fault Refusal :=
  completeCommand (commandChecks .prggen s) prggenEffect s

/-- What PRGGENN writes when no test fails (42_prg.md R213). -/
def prggennEffect (s : State) : State :=
  let x := lcgSteps s.lcgA s.lcgC s.lcgM s.prgN.toNat s.lcgS
  { s with lcgS := x, result := x }

/-- PRGGENN (42_prg.md R213). -/
def execPrggenn (s : State) : Host.Outcome State Fault Refusal :=
  completeCommand (commandChecks .prggenn s) prggennEffect s

/-- What PRGPERIOD writes when no test fails (42_prg.md R215). -/
def prgperiodEffect (s : State) : State :=
  { s with result := BitVec.ofNat 64 (lcgPeriod s.prgA s.prgC s.prgM s.prgSeed) }

/-- PRGPERIOD (42_prg.md R215). -/
def execPrgperiod (s : State) : Host.Outcome State Fault Refusal :=
  completeCommand (commandChecks .prgperiod s) prgperiodEffect s

end Sys2Proof.Machine
end

