-- ==== Sys2Proof/Machine/System.lean ====
section
/-! DEFINITION. The system command NOP (43_system.md R230). -/

namespace Sys2Proof.Machine

/-- NOP writes nothing: the lifecycle alone acts (43_system.md R230). -/
def nopEffect (s : State) : State := s

/-- NOP (43_system.md R230). -/
def execNop (s : State) : Host.Outcome State Fault Refusal :=
  completeCommand (commandChecks .nop s) nopEffect s

end Sys2Proof.Machine
end

