-- ==== Sys2Proof/Machine/Dispatch.lean ====
section
/-! DEFINITION. Which meaning each command has: one arm per constructor of Instr. -/

namespace Sys2Proof.Machine

/-- The completion of the command i on the state s, in which it is executing (60_exceptions.md R252). -/
def exec (i : Instr) (s : State) : Host.Outcome State Fault Refusal :=
  match i with
  | .nop => Sys2Proof.Machine.execNop s
  | .digest => Sys2Proof.Machine.execDigest s
  | .keyexp => Sys2Proof.Machine.execKeyexp s
  | .encblk => Sys2Proof.Machine.execEncblk s
  | .decblk => Sys2Proof.Machine.execDecblk s
  | .enccbc => Sys2Proof.Machine.execEnccbc s
  | .deccbc => Sys2Proof.Machine.execDeccbc s
  | .prgload => Sys2Proof.Machine.execPrgload s
  | .prggen => Sys2Proof.Machine.execPrggen s
  | .prggenn => Sys2Proof.Machine.execPrggenn s
  | .prgperiod => Sys2Proof.Machine.execPrgperiod s

end Sys2Proof.Machine
end

