-- ==== Sys2Proof/Machine/Flags.lean ====
section
/-! DEFINITION. The words of the control and status registers, computed from the fields that hold them, the interrupt
output, and what a host write does to CTRL.IE and to the STATUS bits. CORE has no arithmetic flag (10_state.md R54). -/

namespace Sys2Proof.Machine

/-- A bit as a 64-bit word in place `k`. -/
def flagAt (b : Bool) (k : Nat) : Word64 := if b then 1#64 <<< k else 0#64

/-- STATUS.BUSY (10_state.md R24). -/
def busyFlag (s : State) : Bool := s.phase == .busy

/-- STATUS.ERR: 1 exactly when ERR.CODE is not 0 (10_state.md R24). -/
def errFlag (s : State) : Bool := s.errCode != 0#8

/-- CTRL as it reads: IE in bit 0, SRST reads 0 (10_state.md R23). -/
def ctrlWord (s : State) : Word64 := flagAt s.ie 0

/-- STATUS as it reads: BUSY, DONE, ERR, HAZ in bits 0 to 3 (10_state.md R24). -/
def statusWord (s : State) : Word64 :=
  flagAt (busyFlag s) 0 ||| flagAt s.done 1 ||| flagAt (errFlag s) 2 ||| flagAt s.haz 3

/-- ERR as it reads: CODE in bits 7:0, CAUSE in bits 15:8 (10_state.md R26, 60_exceptions.md R242). -/
def errWord (s : State) : Word64 := s.errCode.setWidth 64 ||| (s.errCause.setWidth 64 <<< 8)

/-- The output IRQ: STATUS.DONE and CTRL.IE (10_state.md R52, 60_exceptions.md R255). -/
def irq (s : State) : Bool := s.done && s.ie

/-- The platform interrupt lines CORE asserts: its one line while IRQ is asserted (60_exceptions.md R256; log 13). -/
def assertedLines (s : State) : List Nat := if irq s then [Config.coreIrqLine] else []

/-- A host write to CTRL without the reset bit: IE <- v[0] (43_system.md R233). -/
def State.writeIe (s : State) (v : Word64) : State := { s with ie := v.getLsbD 0 }

/-- A host write to STATUS: a 1 in bit 1 clears DONE (the acknowledgement), a 1 in bit 3 clears HAZ, other bits are ignored
(10_state.md R24, 43_system.md R233). -/
def State.writeStatus (s : State) (v : Word64) : State :=
  let t := if v.getLsbD 1 then s.acknowledge else s
  if v.getLsbD 3 then { t with haz := false } else t

end Sys2Proof.Machine
end

