-- ==== Sys2Proof/Machine/HostAccess.lean ====
section
/-! DEFINITION. What the host and the platform can do to CORE: register and buffer accesses (43_system.md R231 to R235) with
the hazard rules (70_reset_and_hazards.md R287 to R289), bus errors (20_memory.md R71, R75 to R77), soft reset and power-on
reset (70_reset_and_hazards.md R280 to R284). -/

namespace Sys2Proof.Machine

/-! ## The register map -/

/-- The 27 registers (10_state.md R21). -/
inductive Reg where
  | id
  | ctrl
  | status
  | cmd
  | err
  | errInfo
  | srcAddr
  | srcLen
  | dstAddr
  | keyAddr
  | cipherCfg
  | iv
  | blkA
  | blkB
  | prgA
  | prgC
  | prgM
  | prgSeed
  | prgN
  | lcgA
  | lcgC
  | lcgM
  | lcgS
  | result
  | outLen
  | digestLo
  | digestHi
  deriving DecidableEq, Repr

/-- The registers in the order of their offsets, 0x000 to 0x0D0 in steps of 8 (10_state.md R21). -/
def registerMap : List Reg :=
  [.id, .ctrl, .status, .cmd, .err, .errInfo, .srcAddr, .srcLen, .dstAddr,
   .keyAddr, .cipherCfg, .iv, .blkA, .blkB, .prgA, .prgC, .prgM, .prgSeed,
   .prgN, .lcgA, .lcgC, .lcgM, .lcgS, .result, .outLen, .digestLo, .digestHi]

/-- The register at an 8-byte-aligned offset of the register window, or none where the offset is reserved
(10_state.md R21, R49). -/
def regAt (w : Nat) : Option Reg := registerMap[w / 8]?

/-- The window offset of a register (10_state.md R21). -/
def regOffset (r : Reg) : Nat := 8 * registerMap.idxOf r

/-- The operand registers (10_state.md R50). -/
def isOperandReg : Reg → Bool
  | .id => false
  | .ctrl => false
  | .status => false
  | .cmd => false
  | .err => false
  | .errInfo => false
  | .srcAddr => true
  | .srcLen => true
  | .dstAddr => true
  | .keyAddr => true
  | .cipherCfg => true
  | .iv => true
  | .blkA => true
  | .blkB => true
  | .prgA => true
  | .prgC => true
  | .prgM => true
  | .prgSeed => true
  | .prgN => true
  | .lcgA => false
  | .lcgC => false
  | .lcgM => false
  | .lcgS => false
  | .result => false
  | .outLen => false
  | .digestLo => false
  | .digestHi => false

/-- The reset value of a register (10_state.md R21). -/
def regResetValue (r : Reg) : Word64 := if r = .id then Config.idWord else 0#64

/-- The value a register reads as, bits outside its fields 0 (43_system.md R232, 10_state.md R21). -/
def readReg (r : Reg) (s : State) : Word64 :=
  match r with
  | .id => Config.idWord
  | .ctrl => ctrlWord s
  | .status => statusWord s
  | .cmd => s.cmd
  | .err => errWord s
  | .errInfo => s.errInfo
  | .srcAddr => s.srcAddr
  | .srcLen => s.srcLen
  | .dstAddr => s.dstAddr
  | .keyAddr => s.keyAddr
  | .cipherCfg => s.cipherCfg.setWidth 64
  | .iv => s.iv
  | .blkA => s.blkA.setWidth 64
  | .blkB => s.blkB.setWidth 64
  | .prgA => s.prgA
  | .prgC => s.prgC
  | .prgM => s.prgM
  | .prgSeed => s.prgSeed
  | .prgN => s.prgN
  | .lcgA => s.lcgA
  | .lcgC => s.lcgC
  | .lcgM => s.lcgM
  | .lcgS => s.lcgS
  | .result => s.result
  | .outLen => s.outLen
  | .digestLo => s.digestLo
  | .digestHi => s.digestHi

/-- A value stored in an operand register, restricted to the register's fields (10_state.md R28 to R40, 43_system.md R233).
Any other register is left as it is. -/
def setOperand (r : Reg) (v : Word64) (s : State) : State :=
  match r with
  | .id => s
  | .ctrl => s
  | .status => s
  | .cmd => s
  | .err => s
  | .errInfo => s
  | .srcAddr => { s with srcAddr := v }
  | .srcLen => { s with srcLen := v }
  | .dstAddr => { s with dstAddr := v }
  | .keyAddr => { s with keyAddr := v }
  | .cipherCfg => { s with cipherCfg := v.setWidth 16 }
  | .iv => { s with iv := v }
  | .blkA => { s with blkA := v.setWidth 32 }
  | .blkB => { s with blkB := v.setWidth 32 }
  | .prgA => { s with prgA := v }
  | .prgC => { s with prgC := v }
  | .prgM => { s with prgM := v }
  | .prgSeed => { s with prgSeed := v }
  | .prgN => { s with prgN := v }
  | .lcgA => s
  | .lcgC => s
  | .lcgM => s
  | .lcgS => s
  | .result => s
  | .outLen => s
  | .digestLo => s
  | .digestHi => s

/-! ## Reset -/

/-- The output range of the command a reset would abandon: offset and length, empty when none is executing, and for a word
that encodes no command (70_reset_and_hazards.md R283, 10_state.md R46). -/
def abandonedRange (s : State) : Nat × Nat :=
  match s.phase, decode s.cmd with
  | .busy, .ok i => (dstOff s, outputLength i s)
  | .busy, .error _ => (0, 0)
  | .idle, _ => (0, 0)

/-- SoftReset(): every register at its reset value, IDLE, the buffer kept but for the output range of an abandoned command,
whose bytes become free values (70_reset_and_hazards.md R282, R283; log 7). What the host has still to do, and the bus's
last answer, are no state of CORE and stay (log 20). -/
def softReset (s : State) : State :=
  { State.reset with
    buf := bufScramble s.buf s.draws (abandonedRange s).1 (abandonedRange s).2
    turns := s.turns
    resp := s.resp
    draws := s.draws + 1 }

/-- Power-on reset: every register at its reset value, IDLE, every buffer byte a free value
(70_reset_and_hazards.md R280, R281; logs 6 and 20). -/
def powerOnReset (s : State) : State :=
  { State.reset with
    buf := powerOnBuffer s.draws
    turns := s.turns
    draws := s.draws + 1 }

/-! ## Host accesses -/

/-- A register write (43_system.md R233). -/
def writeReg (r : Reg) (v : Word64) (s : State) : State :=
  match r with
  | .ctrl => if v.getLsbD 1 then softReset s else s.writeIe v
  | .status => s.writeStatus v
  | .cmd => if s.phase = .busy then s.hazard else s.accept v
  | r => if isOperandReg r then (if s.phase = .busy then s.hazard else setOperand r v s) else s

/-- HostRegRead(w) (43_system.md R232): a reserved offset reads 0 (10_state.md R49). -/
def hostRegRead (w : Nat) (s : State) : Word64 :=
  match regAt w with
  | some r => readReg r s
  | none => 0#64

/-- HostRegWrite(w, v) (43_system.md R233): a reserved offset ignores it (10_state.md R49). -/
def hostRegWrite (w : Nat) (v : Word64) (s : State) : State :=
  match regAt w with
  | some r => writeReg r v s
  | none => s

/-- HostBufRead(k, n) (43_system.md R234): while BUSY a free value, and HAZ is set (70_reset_and_hazards.md R288; log 8). -/
def hostBufRead (k n : Nat) (s : State) : State :=
  if s.phase = .busy then
    { s.hazard with resp := .data n (freeValue s.draws n), draws := s.draws + 1 }
  else s.respond (.data n (le64 (bufRead s.buf k n)))

/-- HostBufWrite(k, n, v) (43_system.md R235): while BUSY dropped, and HAZ is set (70_reset_and_hazards.md R287). -/
def hostBufWrite (k n : Nat) (v : Word64) (s : State) : State :=
  if s.phase = .busy then s.hazard else { s with buf := bufWrite s.buf k (bytesOf n v) }

/-- What a window offset and a width reach. -/
inductive Target where
  /-- The register window, at this offset (20_memory.md R71, R76). -/
  | register (w : Nat)
  /-- The buffer RAM, at this buffer offset (20_memory.md R71, R75). -/
  | buffer (k : Nat)
  /-- Nothing: a bus error, for this reason (20_memory.md R77). -/
  | refused (f : Fault)
  /-- An address CORE does not decode (20_memory.md R71; log 12). -/
  | elsewhere
  deriving DecidableEq, Repr

/-- The window map, with the width and alignment each part asks for (20_memory.md R71, R75, R76). -/
def busTarget (off width : Nat) : Target :=
  if off < Config.regWindowEnd then
    if width = 8 ∧ off % 8 = 0 then .register off else .refused (.badRegisterAccess off width)
  else if off < Config.bufWindowBase then .refused (.unmapped off)
  else if off < Config.windowBytes then
    if (width = 1 ∨ width = 2 ∨ width = 4 ∨ width = 8) ∧ off % width = 0 then .buffer (off - Config.bufWindowBase)
    else .refused (.badBufferAccess off width)
  else .elsewhere

/-- One host access (43_system.md R231): its effect and CORE's answer. A bus error is an answer too: an error response, with
nothing of CORE changed and an executing command still executing (20_memory.md R77; 60_exceptions.md R244; log 3). -/
def hostAccess (a : Access) (s : State) : Host.Outcome State Fault Refusal :=
  match busTarget a.off a.width, a.kind with
  | .refused f, _ => .next (s.respond (.error f))
  | .elsewhere, _ => .next (s.respond .elsewhere)
  | .register w, .read => .next (s.respond (.data 8 (hostRegRead w s)))
  | .register w, .write v => .next ((hostRegWrite w v s).respond .written)
  | .buffer k, .read => .next (hostBufRead k a.width s)
  | .buffer k, .write v => .next ((hostBufWrite k a.width v s).respond .written)

/-- The bus address of an access: CORE_BASE + its window offset (43_system.md R231; log 12). -/
def busAddress (a : Access) : Nat := Config.coreBase + a.off

/-- The window offset a bus address reaches, or none where CORE does not decode it (20_memory.md R71). -/
def windowOffset (addr : Nat) : Option Nat :=
  if Config.coreBase ≤ addr ∧ addr < Config.coreBase + Config.windowBytes then some (addr - Config.coreBase) else none

/-! ## The executing command word -/

/-- The command the engine executes: the decoding of the latched word, which CMD holds while BUSY (30_encoding.md R104,
10_state.md R25, R55). -/
def fetchCommand (s : State) : Except DecodeError Instr := decode s.cmd

/-- The error a word that encodes no command raises, with the word as ERR_INFO (60_exceptions.md R243). -/
def decodeRaise (e : DecodeError) (v : Word64) : Raise :=
  match e with
  | .undefinedOpcode => ⟨.undefinedOpcode, v⟩
  | .reservedBits => ⟨.reservedBits, v⟩

/-- The completion of a word that encodes no command (30_encoding.md R105, R106; 60_exceptions.md R248). -/
def completeIllegal (e : DecodeError) (s : State) : Host.Outcome State Fault Refusal :=
  .next (errorCompletion (decodeRaise e s.cmd) s)

end Sys2Proof.Machine
end

