-- ==== Sys2Proof/Machine/Engine.lean ====
section
/-! DEFINITION. The engine's turn, and how a command word comes to be executing (60_exceptions.md R251, R252). -/

namespace Sys2Proof.Machine

/-- The engine's turn: while BUSY it completes the latched command, in IDLE it does nothing
(60_exceptions.md R252, 70_reset_and_hazards.md R286). -/
def engineTurn (s : State) : Host.Outcome State Fault Refusal :=
  match s.phase with
  | .idle => .next s
  | .busy =>
    match fetchCommand s with
    | .ok i => exec i s
    | .error e => completeIllegal e s

/-- The next turn taken off the list of those waiting. -/
def State.popTurn (s : State) : State := { s with turns := s.turns.tail }

/-- `s` with the engine's turn next. With no turn waiting the engine is next already (log 2). -/
def State.engineNext (s : State) : State :=
  match s.turns with
  | [] => s
  | ts => { s with turns := .engine :: ts }

/-- `s` with the command word `v` accepted and the engine's turn next (60_exceptions.md R251; log 11). -/
def State.placeCommand (s : State) (v : Word64) : State := (s.accept v).engineNext

end Sys2Proof.Machine
end

