-- ==== Sys2Proof/Machine/Step.lean ====
section
/-! DEFINITION. One step of CORE: the next turn of the host, the engine or the platform (log 1), and where the host of this
package places a command word. -/

namespace Sys2Proof.Machine

/-- One step: the first turn waiting. With none waiting only the engine can act, and an accepted command always completes
(70_reset_and_hazards.md R294; log 2). -/
def step (s : State) : Host.Outcome State Fault Refusal :=
  match s.turns with
  | [] => engineTurn s
  | .engine :: _ => engineTurn s.popTurn
  | .host a :: _ => hostAccess a s.popTurn
  | .powerOn :: _ => .next (powerOnReset s.popTurn)

/-- `s` with the command word whose bits the opcode table numbers as `w` accepted, so that the next step completes it
(60_exceptions.md R251, R252; log 11). -/
def State.withFetchWord (s : State) (nbits w : Nat) : State := s.placeCommand (tableWord nbits w)

end Sys2Proof.Machine
end

