-- ==== Sys2Proof/Machine/Script.lean ====
section
/-! DEFINITION. The host's script notation as functions giving accesses and turns (30_encoding.md R109 to R111). The loop
`wait` is the host's: here it is a given number of polls (log 19). -/

namespace Sys2Proof.Machine

/-- `wr REG, imm` (30_encoding.md R109). -/
def scriptWr (r : Reg) (imm : Word64) : Turn := .host ⟨regOffset r, 8, .write imm⟩

/-- `rd REG` (30_encoding.md R109). -/
def scriptRd (r : Reg) : Turn := .host ⟨regOffset r, 8, .read⟩

/-- `wb.N k, imm` (30_encoding.md R109). -/
def scriptWb (n k : Nat) (imm : Word64) : Turn := .host ⟨Config.bufWindowBase + k, n, .write imm⟩

/-- `rb.N k` (30_encoding.md R109). -/
def scriptRb (n k : Nat) : Turn := .host ⟨Config.bufWindowBase + k, n, .read⟩

/-- `cmd MNEMONIC` (30_encoding.md R110). -/
def scriptCmd (i : Instr) : Turn := scriptWr .cmd (encode i)

/-- `wait` that polls STATUS `polls` times (30_encoding.md R110). -/
def scriptWait (polls : Nat) : List Turn := List.replicate polls (scriptRd .status)

/-- `run MNEMONIC` in the interleaving in which the engine completes before the first poll (30_encoding.md R110). -/
def scriptRun (i : Instr) : List Turn := [scriptCmd i, .engine, scriptRd .status]

/-- `ack` (30_encoding.md R110). -/
def scriptAck : Turn := scriptWr .status 0x2#64

/-- `clrhaz` (30_encoding.md R110). -/
def scriptClrhaz : Turn := scriptWr .status 0x8#64

/-- `srst` (30_encoding.md R110). -/
def scriptSrst : Turn := scriptWr .ctrl 0x2#64

/-- The width of the next chunk: the largest of 8, 4, 2, 1 that divides the offset and is at most what remains
(30_encoding.md R111). -/
def chunkWidth (p rem : Nat) : Nat :=
  if p % 8 = 0 ∧ 8 ≤ rem then 8
  else if p % 4 = 0 ∧ 4 ≤ rem then 4
  else if p % 2 = 0 ∧ 2 ≤ rem then 2
  else 1

/-- The chunks (offset, width) of `rem` bytes from offset `p` on, greedily (30_encoding.md R111). `fuel` is at least `rem`. -/
def chunksFrom : Nat → Nat → Nat → List (Nat × Nat)
  | 0, _, _ => []
  | fuel + 1, p, rem =>
    if rem = 0 then []
    else (p, chunkWidth p rem) :: chunksFrom fuel (p + chunkWidth p rem) (rem - chunkWidth p rem)

/-- The chunks of `n` bytes at offset `k` (30_encoding.md R111). -/
def chunks (k n : Nat) : List (Nat × Nat) := chunksFrom n k n

/-- `wrbuf k, bytes` (30_encoding.md R111). -/
def scriptWrbuf (k : Nat) (bs : List Byte) : List Turn :=
  (chunks k bs.length).map fun c => scriptWb c.2 c.1 (le64 (slice bs (c.1 - k) c.2))

/-- `rdbuf k, n` (30_encoding.md R111). -/
def scriptRdbuf (k n : Nat) : List Turn := (chunks k n).map fun c => scriptRb c.2 c.1

end Sys2Proof.Machine
end

