-- ==== Sys2Proof/Safety.lean ====
section
/-! DEFINITION. What the claims speak of: the invariant of CORE's state, the data an executing command depends on, the
faults and duties of a host (20_memory.md R77; 70_reset_and_hazards.md R287, R288), and runs of several commands. -/

namespace Sys2Proof.Safety

open Sys2Proof.Machine

/-- What holds of every state CORE can reach. -/
structure StateInv (s : State) : Prop where
  /-- The buffer is in its canonical form. -/
  buf_wf : Memory.wf s.buf
  /-- While a command executes, DONE is clear and no error is reported (60_exceptions.md R251). -/
  busy_clean : s.phase = .busy → s.done = false ∧ s.errCode = 0#8
  /-- No error: CAUSE and ERR_INFO are 0 (10_state.md R26, 60_exceptions.md R251). -/
  no_error : s.errCode = 0#8 → s.errCause = 0#8 ∧ s.errInfo = 0#64
  /-- Only the codes 0, 1 and 2 are ever written, with the causes of each (60_exceptions.md R241 to R243). -/
  err_coded : s.errCode = 0#8 ∨ (s.errCode = 1#8 ∧ 1 ≤ s.errCause.toNat ∧ s.errCause.toNat ≤ 9) ∨
    (s.errCode = 2#8 ∧ (s.errCause = 1#8 ∨ s.errCause = 2#8) ∧ s.errInfo = s.cmd)
  /-- LCG_M = 0 means no generator was constructed since reset (10_state.md R43). -/
  no_generator : s.lcgM = 0#64 → s.lcgA = 0#64 ∧ s.lcgC = 0#64 ∧ s.lcgS = 0#64
  /-- OUT_LEN counts bytes of the buffer (10_state.md R46). -/
  out_len : s.outLen.toNat ≤ Config.bufBytes

/-- What a command is given at acceptance: the command word, the operand registers, the live PRG registers and the buffer
(10_state.md R55). -/
structure Latched where
  cmd : Word64
  srcAddr : Word64
  srcLen : Word64
  dstAddr : Word64
  keyAddr : Word64
  cipherCfg : BitVec 16
  iv : Word64
  blkA : Word32
  blkB : Word32
  prgA : Word64
  prgC : Word64
  prgM : Word64
  prgSeed : Word64
  prgN : Word64
  lcgA : Word64
  lcgC : Word64
  lcgM : Word64
  lcgS : Word64
  buf : Memory
  deriving DecidableEq, Repr

/-- The live values of what a command is given at acceptance (10_state.md R55; log 4). -/
def latchedOf (s : State) : Latched where
  cmd := s.cmd
  srcAddr := s.srcAddr
  srcLen := s.srcLen
  dstAddr := s.dstAddr
  keyAddr := s.keyAddr
  cipherCfg := s.cipherCfg
  iv := s.iv
  blkA := s.blkA
  blkB := s.blkB
  prgA := s.prgA
  prgC := s.prgC
  prgM := s.prgM
  prgSeed := s.prgSeed
  prgN := s.prgN
  lcgA := s.lcgA
  lcgC := s.lcgC
  lcgM := s.lcgM
  lcgS := s.lcgS
  buf := s.buf

/-- An access that asks for a soft reset (10_state.md R23). -/
def isSoftReset (a : Access) : Bool :=
  match busTarget a.off a.width, a.kind with
  | .register w, .write v => regAt w == some .ctrl && v.getLsbD 1
  | _, _ => false

/-- A fault of the host agent: an access CORE answers with an error response (20_memory.md R77; log 3). -/
def isBusError (a : Access) : Bool :=
  match busTarget a.off a.width with
  | .refused _ => true
  | .register _ => false
  | .buffer _ => false
  | .elsewhere => false

/-- An access that is a hazard in the state `s`: while BUSY, a write to CMD or to an operand register, and any buffer access
(70_reset_and_hazards.md R287, R288). -/
def isHazard (a : Access) (s : State) : Bool :=
  match s.phase, busTarget a.off a.width, a.kind with
  | .busy, .register w, .write _ =>
    match regAt w with
    | some r => r == .cmd || isOperandReg r
    | none => false
  | .busy, .buffer _, _ => true
  | _, _, _ => false

/-- The next turn keeps the host's duty: it is no hazard (70_reset_and_hazards.md R287, R288; log 18). -/
def safeTurn (s : State) : Bool :=
  match s.turns with
  | .host a :: _ => !isHazard a s
  | _ => true

/-- The next `n` turns keep the host's duty, as far as the run goes. -/
def safeTurns : Nat → State → Bool
  | 0, _ => true
  | n + 1, s =>
    safeTurn s &&
      match step s with
      | .next t => safeTurns n t
      | .fault _ => true
      | .refused _ => true

/-- `n` completions of the command `i` one after another, as `n` runs of it leave the registers and the buffer. -/
def execTimes (i : Instr) : Nat → State → Host.Outcome State Fault Refusal
  | 0, s => .next s
  | n + 1, s =>
    match exec i s with
    | .next t => execTimes i n t
    | .fault f => .fault f
    | .refused r => .refused r

/-- A command's completion with an error: ERR, ERR_INFO and STATUS change and nothing else (60_exceptions.md R248). -/
def failed (code cause : Byte) (info : Word64) (s : State) : Host.Outcome State Fault Refusal :=
  .next { s with errCode := code, errCause := cause, errInfo := info, phase := .idle, done := true }

/-- The round count of CIPHER_CFG (10_state.md R32). -/
def roundsOf (s : State) : Nat := s.cipherCfg.toNat % 256

/-- The key length of CIPHER_CFG in bytes (10_state.md R32). -/
def keyLenOf (s : State) : Nat := s.cipherCfg.toNat / 256

/-- The operands pass CipherCheck (41_cipher.md R160). -/
def cipherLegal (s : State) : Prop :=
  roundsOf s ≠ 0 ∧ keyLenOf s ≠ 0 ∧ keyLenOf s % 4 = 0 ∧ s.keyAddr.toNat + keyLenOf s ≤ 65536

/-- Two byte ranges share a byte (20_memory.md R83). -/
def rangesMeet (b1 n1 b2 n2 : Nat) : Prop := ∃ x, b1 ≤ x ∧ x < b1 + n1 ∧ b2 ≤ x ∧ x < b2 + n2

/-- The key schedule the registers and the buffer name (41_cipher.md R160, R164). -/
def scheduleOf (s : State) : List Word32 := expandKey (bufRead s.buf s.keyAddr.toNat (keyLenOf s)) (roundsOf s)

/-- The source bytes the registers name (30_encoding.md R102). -/
def sourceOf (s : State) : List Byte := bufRead s.buf s.srcAddr.toNat s.srcLen.toNat

/-- An access of the register window as 20_memory.md R76 wants it. -/
def registerAccessOk (a : Access) : Prop := a.off < 0x1000 ∧ a.width = 8 ∧ a.off % 8 = 0

/-- An access of the buffer window, at buffer offset `k`, as 20_memory.md R75 wants it. -/
def bufferAccessOk (a : Access) (k : Nat) : Prop :=
  a.off = 0x10000 + k ∧ k < 0x10000 ∧ (a.width = 1 ∨ a.width = 2 ∨ a.width = 4 ∨ a.width = 8) ∧ k % a.width = 0

/-- The bits of a register's fields (10_state.md R28 to R40). -/
def fieldMask (r : Reg) : Word64 :=
  match r with
  | .cipherCfg => 0xFFFF#64
  | .blkA => 0xFFFFFFFF#64
  | .blkB => 0xFFFFFFFF#64
  | _ => 0xFFFFFFFFFFFFFFFF#64

/-- The bytes of the buffer from offset `a` on are `bs`, and every other byte is as in `m`. -/
def bufferHolds (t m : Memory) (a : Nat) (bs : List Byte) : Prop :=
  (∀ k, k < bs.length → Memory.read t (a + k) = bs.getD k 0#8) ∧
  ∀ x, (x < a ∨ a + bs.length ≤ x) → Memory.read t x = Memory.read m x

end Sys2Proof.Safety
end

