-- ==== Sys2Proof/Certificates/Slice0/Obligations.lean ====
section
/-! DEFINITION. The statements for the provers: what the numbered rules of spec/ say CORE does. OBLIGATIONS.json lists
them with their tier, basis and rules; Tests/Slice0.lean shows, for each statement with hypotheses, a state that meets them.
Where a statement asks for a buffer in canonical form, that form is the model's own (log 5) and EveryStepKeepsTheInvariant
and ResetSatisfiesTheInvariant say that it always holds. The fields turns, resp and draws are the model's own (logs 1, 10 and
9): what a statement says of them is the model's choice, and no rule cited is meant for it. -/

open Sys2Proof Sys2Proof.Machine Sys2Proof.Safety

/-- Each of the eleven words OPCODE with RSVD = 0 decodes to its command; 0x02, 0x14 and 0xFF are undefined opcodes;
0x100 and 0x8000000000000001 have reserved bits set; 0x102 reports the opcode first. (derived: 30_encoding.md section
2 (R103, R104)) -/
def Obligations.DecodesWrittenOutWords : Prop :=
  decode 0x00#64 = .ok .nop ∧ decode 0x01#64 = .ok .digest ∧ decode 0x08#64 = .ok .keyexp ∧
  decode 0x09#64 = .ok .encblk ∧ decode 0x0A#64 = .ok .decblk ∧ decode 0x0B#64 = .ok .enccbc ∧
  decode 0x0C#64 = .ok .deccbc ∧ decode 0x10#64 = .ok .prgload ∧ decode 0x11#64 = .ok .prggen ∧
  decode 0x12#64 = .ok .prggenn ∧ decode 0x13#64 = .ok .prgperiod ∧
  decode 0x02#64 = .error .undefinedOpcode ∧ decode 0x14#64 = .error .undefinedOpcode ∧
  decode 0xFF#64 = .error .undefinedOpcode ∧ decode 0x100#64 = .error .reservedBits ∧
  decode 0x8000000000000001#64 = .error .reservedBits ∧ decode 0x102#64 = .error .undefinedOpcode

/-- For every word v: if v[7:0] is none of the eleven opcodes it decodes to the undefined-opcode error, whatever the
reserved bits; if it is one and v[63:8] is not 0, to the reserved-bits error; else to the command of that opcode. The
errors raise ILLEGAL_COMMAND (code 2) with cause 1 or 2 and the word v as information. (stated: R104) -/
def Obligations.EveryWordDecodesToOneCase : Prop :=
  ∀ v : Word64,
    ((v.toNat % 256) ∉ [0x00, 0x01, 0x08, 0x09, 0x0A, 0x0B, 0x0C, 0x10, 0x11, 0x12, 0x13] →
      decode v = .error .undefinedOpcode) ∧
    ((v.toNat % 256) ∈ [0x00, 0x01, 0x08, 0x09, 0x0A, 0x0B, 0x0C, 0x10, 0x11, 0x12, 0x13] → v.toNat / 256 ≠ 0 →
      decode v = .error .reservedBits) ∧
    (∀ row ∈ [(0x00, Instr.nop), (0x01, .digest), (0x08, .keyexp), (0x09, .encblk), (0x0A, .decblk), (0x0B, .enccbc),
        (0x0C, .deccbc), (0x10, .prgload), (0x11, .prggen), (0x12, .prggenn), (0x13, .prgperiod)],
      v.toNat % 256 = row.1 → v.toNat / 256 = 0 → decode v = .ok row.2) ∧
    (∀ e, causeCode (decodeRaise e v).cause = 2#8 ∧ (decodeRaise e v).info = v ∧
      causeNumber (decodeRaise e v).cause = (match e with | .undefinedOpcode => 1#8 | .reservedBits => 2#8))

/-- For every well-formed command i: the word encode i is well-formed, decodes to i, and is read as i by the table
decoder. Every word that decodes to i is encode i, and a word is well-formed exactly when it decodes to a command.
(derived: 30_encoding.md sections 1 and 2 (R100, R101, R103, R104)) -/
def Obligations.EncodeAndDecodeAgree : Prop :=
  (∀ i : Instr, i.wf = true →
      decode (encode i) = .ok i ∧ commandWordWf (encode i) = true ∧ decodeTableWord 64 (encode i).toNat = some i) ∧
    (∀ (v : Word64) (i : Instr), decode v = .ok i → v = encode i) ∧
    (∀ v : Word64, commandWordWf v = true ↔ ∃ i, decode v = .ok i)

/-- If a command is executing and CMD decodes to i, the engine's step is exec of i, with the turn taken off the list;
the rules cited are for that. The model's choices, which no rule states: with no turn listed the engine acts as if its
turn were next (log 2, DEDUCED), and a command word placed by withFetchWord, which stands for the host's CMD write,
runs in the very next step on the state that accepted it, also from a state with BUSY = 1, where no host access could
place it (log 11, DESIGN CHOICE). (derived: 60_exceptions.md R252, 30_encoding.md section 2 (R104), 10_state.md R55)
-/
def Obligations.StepRunsTheDecodedCommand : Prop :=
  (∀ (s : State) (i : Instr), s.phase = .busy → decode s.cmd = .ok i →
      (s.turns = [] → step s = exec i s) ∧
      (∀ ts, s.turns = .engine :: ts → step s = exec i { s with turns := ts })) ∧
    (∀ (s : State) (i : Instr), step (s.withFetchWord 64 (encode i).toNat) = exec i (s.accept (encode i)))

/-- With BUSY = 0, an 8-byte host write of any v to offset 0x018 gives the state with CMD = v, BUSY = 1, DONE = 0, ERR
= 0, ERR_INFO = 0 and all else (HAZ, operands, LCG_*, buffer) as before; what the command is given is v with the
values held at acceptance; IRQ is 0. (stated: R251) -/
def Obligations.AcceptanceOfACommandWord : Prop :=
  ∀ (s : State) (v : Word64) (ts : List Turn), s.phase = .idle → s.turns = .host ⟨0x018, 8, .write v⟩ :: ts →
    ∃ t, step s = .next t ∧
      t = { s with cmd := v, phase := .busy, done := false, errCode := 0#8, errCause := 0#8, errInfo := 0#64,
                   turns := ts, resp := .written } ∧
      latchedOf t = { latchedOf s with cmd := v } ∧ irq t = false

/-- From idle, a CMD write of v followed by the engine's turn: if v[7:0] is in 0x02..0x07, 0x0D..0x0F or 0x14..0xFF,
the end state has ERR = ILLEGAL_COMMAND/UNDEFINED_OPCODE, ERR_INFO = v, CMD = v, DONE = 1, BUSY = 0 and is otherwise
the start state; if v[7:0] is a defined opcode and v[63:8] is not 0, the same with RESERVED_BITS. (stated: R105, R106)
-/
def Obligations.IllegalWordsCompleteWithAnError : Prop :=
  ∀ (s : State) (v : Word64) (ts : List Turn), s.phase = .idle →
    s.turns = .host ⟨0x018, 8, .write v⟩ :: .engine :: ts →
    (((0x02 ≤ v.toNat % 256 ∧ v.toNat % 256 ≤ 0x07) ∨ (0x0D ≤ v.toNat % 256 ∧ v.toNat % 256 ≤ 0x0F) ∨
        0x14 ≤ v.toNat % 256) →
      Host.Core.run core 2 s = .next
        { s with cmd := v, errCode := 2#8, errCause := 1#8, errInfo := v, phase := .idle, done := true,
                 turns := ts, resp := .written }) ∧
    ((v.toNat % 256) ∈ [0x00, 0x01, 0x08, 0x09, 0x0A, 0x0B, 0x0C, 0x10, 0x11, 0x12, 0x13] → v.toNat / 256 ≠ 0 →
      Host.Core.run core 2 s = .next
        { s with cmd := v, errCode := 2#8, errCause := 2#8, errInfo := v, phase := .idle, done := true,
                 turns := ts, resp := .written })

/-- For every command and every state exec answers a next state that is idle with DONE = 1, in which CTRL.IE, HAZ,
CMD, every operand register but BLK_A and BLK_B, and the model's own fields are as before. (derived: 20_memory.md R84,
10_state.md R50, 60_exceptions.md R252) -/
def Obligations.CommandsKeepControlAndOperands : Prop :=
  ∀ (i : Instr) (s : State), ∃ t, exec i s = .next t ∧ t.phase = .idle ∧ t.done = true ∧
    { t with phase := s.phase, done := s.done, errCode := s.errCode, errCause := s.errCause, errInfo := s.errInfo,
             blkA := s.blkA, blkB := s.blkB, lcgA := s.lcgA, lcgC := s.lcgC, lcgM := s.lcgM, lcgS := s.lcgS,
             result := s.result, outLen := s.outLen, digestLo := s.digestLo, digestHi := s.digestHi,
             buf := s.buf } = s

/-- From idle, a CMD write of any word followed by the engine's turn that ends with ERR.CODE not 0 gives the start
state with only CMD, the STATUS bits BUSY and DONE, ERR and ERR_INFO changed (and the turns taken, the bus answered).
(stated: R249) -/
def Obligations.ErrorsArePrecise : Prop :=
  ∀ (s t : State) (v : Word64) (ts : List Turn), s.phase = .idle →
    s.turns = .host ⟨0x018, 8, .write v⟩ :: .engine :: ts → Host.Core.run core 2 s = .next t → t.errCode ≠ 0#8 →
    t = { s with cmd := v, phase := .idle, done := true, errCode := t.errCode, errCause := t.errCause,
                 errInfo := t.errInfo, turns := ts, resp := .written }

/-- For every state, NOP answers the state with BUSY = 0 and DONE = 1 and all else as before; run from reset it leaves
STATUS = 2, ERR = 0 and CMD = 0. (derived: 43_system.md R230) -/
def Obligations.NopOnlyCompletes : Prop :=
  (∀ s : State, exec .nop s = .next { s with phase := .idle, done := true }) ∧
    ∃ t, Host.Core.run core 2 { State.reset with turns := [.host ⟨0x018, 8, .write 0#64⟩, .engine] } = .next t ∧
      readReg .status t = 0x2#64 ∧ readReg .err t = 0#64 ∧ readReg .cmd t = 0#64

/-- If the source and the 16-byte destination are in range and do not share a byte, DIGEST completes: BUF at DST_ADDR
holds Digest16 of the source and every other byte is as before, DIGEST_LO and DIGEST_HI hold its halves, OUT_LEN = 16,
BUSY = 0, DONE = 1, and every other field is unchanged. (For buffers in canonical form.) (derived: 40_digest.md
section 2 (R142), 10_state.md R46 to R48) -/
def Obligations.DigestWritesTheDigest : Prop :=
  ∀ s : State, Memory.wf s.buf → s.srcAddr.toNat + s.srcLen.toNat ≤ 65536 → s.dstAddr.toNat + 16 ≤ 65536 →
    ¬ rangesMeet s.dstAddr.toNat 16 s.srcAddr.toNat s.srcLen.toNat →
    ∃ t, exec .digest s = .next t ∧ bufferHolds t.buf s.buf s.dstAddr.toNat (digest16 (sourceOf s)) ∧
      (digest16 (sourceOf s)).length = 16 ∧
      { t with buf := s.buf } =
        { s with digestLo := le64 ((digest16 (sourceOf s)).take 8), digestHi := le64 ((digest16 (sourceOf s)).drop 8),
                 outLen := 16#64, phase := .idle, done := true }

/-- If CipherCheck passes, the destination of 4t bytes is in range and shares no byte with the key, KEYEXP completes:
BUF at DST_ADDR holds the schedule words in order, 4 bytes each, every other byte is as before, OUT_LEN = 4t =
8*(r+1), BUSY = 0, DONE = 1, and every other field is unchanged. (derived: 41_cipher.md section 4 (R167), 10_state.md
R46) -/
def Obligations.KeyexpWritesTheSchedule : Prop :=
  ∀ s : State, Memory.wf s.buf → cipherLegal s → s.dstAddr.toNat + 8 * (roundsOf s + 1) ≤ 65536 →
    ¬ rangesMeet s.dstAddr.toNat (8 * (roundsOf s + 1)) s.keyAddr.toNat (keyLenOf s) →
    ∃ t, exec .keyexp s = .next t ∧ bufferHolds t.buf s.buf s.dstAddr.toNat ((scheduleOf s).flatMap bytes32) ∧
      ((scheduleOf s).flatMap bytes32).length = 8 * (roundsOf s + 1) ∧
      { t with buf := s.buf } =
        { s with outLen := BitVec.ofNat 64 (8 * (roundsOf s + 1)), phase := .idle, done := true }

/-- If CipherCheck passes, ENCBLK completes: BLK_A and BLK_B hold EncryptBlock of the pair under the key's schedule,
BUSY = 0, DONE = 1, and every other field (the buffer, OUT_LEN and every other register) is unchanged. (derived:
41_cipher.md section 4 (R168)) -/
def Obligations.EncblkEncryptsTheBlock : Prop :=
  ∀ s : State, cipherLegal s →
    exec .encblk s = .next
      { s with blkA := (encryptBlock (scheduleOf s) (roundsOf s) ⟨s.blkA, s.blkB⟩).a,
               blkB := (encryptBlock (scheduleOf s) (roundsOf s) ⟨s.blkA, s.blkB⟩).b, phase := .idle, done := true }

/-- If CipherCheck passes, DECBLK completes: BLK_A and BLK_B hold DecryptBlock of the pair under the key's schedule,
BUSY = 0, DONE = 1, and every other field is unchanged. (derived: 41_cipher.md section 4 (R169)) -/
def Obligations.DecblkDecryptsTheBlock : Prop :=
  ∀ s : State, cipherLegal s →
    exec .decblk s = .next
      { s with blkA := (decryptBlock (scheduleOf s) (roundsOf s) ⟨s.blkA, s.blkB⟩).a,
               blkB := (decryptBlock (scheduleOf s) (roundsOf s) ⟨s.blkA, s.blkB⟩).b, phase := .idle, done := true }

/-- If CipherCheck passes, source and destination are in range and the destination shares no byte with source or key,
ENCCBC completes: BUF at DST_ADDR holds EncChain of the IV and the source, of length 16 + 8*floor(L/8), every other
byte is as before, OUT_LEN is that length, BUSY = 0, DONE = 1, and every other field (the IV too) is unchanged.
(derived: 41_cipher.md section 5 (R170 to R173), 10_state.md R46) -/
def Obligations.EnccbcWritesTheCiphertext : Prop :=
  ∀ s : State, Memory.wf s.buf → cipherLegal s → s.srcAddr.toNat + s.srcLen.toNat ≤ 65536 →
    s.dstAddr.toNat + (16 + 8 * (s.srcLen.toNat / 8)) ≤ 65536 →
    ¬ rangesMeet s.dstAddr.toNat (16 + 8 * (s.srcLen.toNat / 8)) s.srcAddr.toNat s.srcLen.toNat →
    ¬ rangesMeet s.dstAddr.toNat (16 + 8 * (s.srcLen.toNat / 8)) s.keyAddr.toNat (keyLenOf s) →
    ∃ t, exec .enccbc s = .next t ∧
      bufferHolds t.buf s.buf s.dstAddr.toNat (encChain (scheduleOf s) (roundsOf s) s.iv (sourceOf s)) ∧
      (encChain (scheduleOf s) (roundsOf s) s.iv (sourceOf s)).length = 16 + 8 * (s.srcLen.toNat / 8) ∧
      { t with buf := s.buf } =
        { s with outLen := BitVec.ofNat 64 (16 + 8 * (s.srcLen.toNat / 8)), phase := .idle, done := true }

/-- If CipherCheck passes, L is a multiple of 8, source and destination are in range and the destination of max(L-8,
0) bytes shares no byte with source or key, DECCBC completes: BUF at DST_ADDR holds DecChain of the source, every
other byte is as before, OUT_LEN is that length, BUSY = 0, DONE = 1, and every other field is unchanged. L = 0 and L =
8 write nothing. (derived: 41_cipher.md section 5 (R174 to R176), 10_state.md R46) -/
def Obligations.DeccbcWritesThePlaintext : Prop :=
  ∀ s : State, Memory.wf s.buf → cipherLegal s → s.srcAddr.toNat + s.srcLen.toNat ≤ 65536 → s.srcLen.toNat % 8 = 0 →
    s.dstAddr.toNat + (s.srcLen.toNat - 8) ≤ 65536 →
    ¬ rangesMeet s.dstAddr.toNat (s.srcLen.toNat - 8) s.srcAddr.toNat s.srcLen.toNat →
    ¬ rangesMeet s.dstAddr.toNat (s.srcLen.toNat - 8) s.keyAddr.toNat (keyLenOf s) →
    ∃ t, exec .deccbc s = .next t ∧
      bufferHolds t.buf s.buf s.dstAddr.toNat (decChain (scheduleOf s) (roundsOf s) (sourceOf s)) ∧
      (decChain (scheduleOf s) (roundsOf s) (sourceOf s)).length = s.srcLen.toNat - 8 ∧
      { t with buf := s.buf } =
        { s with outLen := BitVec.ofNat 64 (s.srcLen.toNat - 8), phase := .idle, done := true }

/-- If PRG_M is not 0, PRGLOAD completes: LCG_A, LCG_C, LCG_M and LCG_S hold PRG_A, PRG_C, PRG_M and PRG_SEED (a seed
at or above the modulus as it is), BUSY = 0, DONE = 1, and every other field (RESULT too) is unchanged. (derived:
42_prg.md section 2 (R211)) -/
def Obligations.PrgloadConstructsTheGenerator : Prop :=
  ∀ s : State, s.prgM ≠ 0#64 →
    exec .prgload s = .next
      { s with lcgA := s.prgA, lcgC := s.prgC, lcgM := s.prgM, lcgS := s.prgSeed, phase := .idle, done := true }

/-- If LCG_M is not 0, PRGGEN completes: LCG_S and RESULT hold the same value, whose number is (LCG_A*LCG_S + LCG_C)
mod LCG_M over unbounded integers, BUSY = 0, DONE = 1, and every other field is unchanged. (derived: 42_prg.md
sections 1 and 2 (R210, R212)) -/
def Obligations.PrggenTakesOneStep : Prop :=
  ∀ s : State, s.lcgM ≠ 0#64 → ∃ x : Word64,
    x.toNat = (s.lcgA.toNat * s.lcgS.toNat + s.lcgC.toNat) % s.lcgM.toNat ∧
    exec .prggen s = .next { s with lcgS := x, result := x, phase := .idle, done := true }

/-- If LCG_M is not 0: for PRG_N = k above 0, PRGGENN leaves exactly the state that k PRGGEN completions one after
another leave; for PRG_N = 0 it sets RESULT = LCG_S, BUSY = 0, DONE = 1 and changes nothing else. In both cases it
answers a next state. (derived: 42_prg.md section 2 (R213)) -/
def Obligations.PrggennIsRepeatedPrggen : Prop :=
  ∀ s : State, s.lcgM ≠ 0#64 → ∃ t, exec .prggenn s = .next t ∧
    (s.prgN ≠ 0#64 → execTimes .prggen s.prgN.toNat s = .next t) ∧
    (s.prgN = 0#64 → t = { s with result := s.lcgS, phase := .idle, done := true })

/-- If PRG_M is not 0, PRGPERIOD completes: RESULT holds Period(PRG_A, PRG_C, PRG_M, PRG_SEED), BUSY = 0, DONE = 1,
and every other field, the live generator too, is unchanged. (derived: 42_prg.md section 2 (R215)) -/
def Obligations.PrgperiodWritesThePeriod : Prop :=
  ∀ s : State, s.prgM ≠ 0#64 →
    exec .prgperiod s = .next
      { s with result := BitVec.ofNat 64 (lcgPeriod s.prgA s.prgC s.prgM s.prgSeed), phase := .idle, done := true }

/-- For KEYEXP, ENCBLK, DECBLK, ENCCBC and DECCBC: r = 0 gives ROUNDS_ZERO; else b = 0 gives KEYLEN_ZERO; else b mod 4
not 0 gives KEYLEN_NOT_MULT4, each with CIPHER_CFG as information; else a key past the buffer's end gives KEY_RANGE
with KEY_ADDR. Nothing else changes. (derived: 41_cipher.md section 1 (R160), 60_exceptions.md R242, R246, R248) -/
def Obligations.CipherCommandsCheckRoundsAndKey : Prop :=
  ∀ (i : Instr) (s : State), i ∈ [Instr.keyexp, .encblk, .decblk, .enccbc, .deccbc] →
    (roundsOf s = 0 → exec i s = failed 1#8 1#8 (readReg .cipherCfg s) s) ∧
    (roundsOf s ≠ 0 → keyLenOf s = 0 → exec i s = failed 1#8 2#8 (readReg .cipherCfg s) s) ∧
    (roundsOf s ≠ 0 → keyLenOf s % 4 ≠ 0 → exec i s = failed 1#8 3#8 (readReg .cipherCfg s) s) ∧
    (roundsOf s ≠ 0 → keyLenOf s ≠ 0 → keyLenOf s % 4 = 0 → 65536 < s.keyAddr.toNat + keyLenOf s →
      exec i s = failed 1#8 4#8 s.keyAddr s)

/-- A source past the buffer's end gives SRC_RANGE with SRC_ADDR; else a 16-byte destination past the end gives
DST_RANGE with DST_ADDR; else a destination sharing a byte with the source gives OVERLAP with DST_ADDR. Nothing else
changes. Sums are exact. (derived: 40_digest.md section 2 (R142), 60_exceptions.md R242, R246, R247) -/
def Obligations.DigestChecksItsRanges : Prop :=
  ∀ s : State,
    (65536 < s.srcAddr.toNat + s.srcLen.toNat → exec .digest s = failed 1#8 5#8 s.srcAddr s) ∧
    (s.srcAddr.toNat + s.srcLen.toNat ≤ 65536 → 65536 < s.dstAddr.toNat + 16 →
      exec .digest s = failed 1#8 7#8 s.dstAddr s) ∧
    (s.srcAddr.toNat + s.srcLen.toNat ≤ 65536 → s.dstAddr.toNat + 16 ≤ 65536 →
      rangesMeet s.dstAddr.toNat 16 s.srcAddr.toNat s.srcLen.toNat → exec .digest s = failed 1#8 8#8 s.dstAddr s)

/-- With CipherCheck passed: a destination of 8*(r+1) bytes past the buffer's end gives DST_RANGE with DST_ADDR; else
one sharing a byte with the key gives OVERLAP with DST_ADDR. Nothing else changes. (derived: 41_cipher.md section 4
(R167), 60_exceptions.md R242, R246, R247) -/
def Obligations.KeyexpChecksItsRanges : Prop :=
  ∀ s : State, cipherLegal s →
    (65536 < s.dstAddr.toNat + 8 * (roundsOf s + 1) → exec .keyexp s = failed 1#8 7#8 s.dstAddr s) ∧
    (s.dstAddr.toNat + 8 * (roundsOf s + 1) ≤ 65536 →
      rangesMeet s.dstAddr.toNat (8 * (roundsOf s + 1)) s.keyAddr.toNat (keyLenOf s) →
      exec .keyexp s = failed 1#8 8#8 s.dstAddr s)

/-- With CipherCheck passed and OL = 16 + 8*floor(L/8): a source past the buffer's end gives SRC_RANGE with SRC_ADDR;
else a destination of OL bytes past the end gives DST_RANGE with DST_ADDR; else one sharing a byte with the source or
the key gives OVERLAP with DST_ADDR. Nothing else changes. (derived: 41_cipher.md section 5 (R173), 60_exceptions.md
R242, R246, R247) -/
def Obligations.EnccbcChecksItsRanges : Prop :=
  ∀ s : State, cipherLegal s →
    (65536 < s.srcAddr.toNat + s.srcLen.toNat → exec .enccbc s = failed 1#8 5#8 s.srcAddr s) ∧
    (s.srcAddr.toNat + s.srcLen.toNat ≤ 65536 → 65536 < s.dstAddr.toNat + (16 + 8 * (s.srcLen.toNat / 8)) →
      exec .enccbc s = failed 1#8 7#8 s.dstAddr s) ∧
    (s.srcAddr.toNat + s.srcLen.toNat ≤ 65536 → s.dstAddr.toNat + (16 + 8 * (s.srcLen.toNat / 8)) ≤ 65536 →
      (rangesMeet s.dstAddr.toNat (16 + 8 * (s.srcLen.toNat / 8)) s.srcAddr.toNat s.srcLen.toNat ∨
        rangesMeet s.dstAddr.toNat (16 + 8 * (s.srcLen.toNat / 8)) s.keyAddr.toNat (keyLenOf s)) →
      exec .enccbc s = failed 1#8 8#8 s.dstAddr s)

/-- With CipherCheck passed and OL = max(L-8, 0): a source past the buffer's end gives SRC_RANGE with SRC_ADDR; else L
not a multiple of 8 gives CT_LEN_NOT_MULT8 with SRC_LEN; else a destination of OL bytes past the end gives DST_RANGE;
else one sharing a byte with the source or the key gives OVERLAP, both with DST_ADDR. Nothing else changes. (derived:
41_cipher.md section 5 (R176), 60_exceptions.md R242, R246, R247) -/
def Obligations.DeccbcChecksItsRanges : Prop :=
  ∀ s : State, cipherLegal s →
    (65536 < s.srcAddr.toNat + s.srcLen.toNat → exec .deccbc s = failed 1#8 5#8 s.srcAddr s) ∧
    (s.srcAddr.toNat + s.srcLen.toNat ≤ 65536 → s.srcLen.toNat % 8 ≠ 0 →
      exec .deccbc s = failed 1#8 6#8 s.srcLen s) ∧
    (s.srcAddr.toNat + s.srcLen.toNat ≤ 65536 → s.srcLen.toNat % 8 = 0 →
      65536 < s.dstAddr.toNat + (s.srcLen.toNat - 8) → exec .deccbc s = failed 1#8 7#8 s.dstAddr s) ∧
    (s.srcAddr.toNat + s.srcLen.toNat ≤ 65536 → s.srcLen.toNat % 8 = 0 →
      s.dstAddr.toNat + (s.srcLen.toNat - 8) ≤ 65536 →
      (rangesMeet s.dstAddr.toNat (s.srcLen.toNat - 8) s.srcAddr.toNat s.srcLen.toNat ∨
        rangesMeet s.dstAddr.toNat (s.srcLen.toNat - 8) s.keyAddr.toNat (keyLenOf s)) →
      exec .deccbc s = failed 1#8 8#8 s.dstAddr s)

/-- PRG_M = 0 makes PRGLOAD and PRGPERIOD, and LCG_M = 0 makes PRGGEN and PRGGENN (for every PRG_N), end with
MALFORMED_INPUT/MODULUS_ZERO and ERR_INFO = 0; nothing else changes. (derived: 42_prg.md section 2 (R211 to R213,
R215), 60_exceptions.md R242) -/
def Obligations.PrgCommandsRefuseAZeroModulus : Prop :=
  ∀ s : State,
    (s.prgM = 0#64 → exec .prgload s = failed 1#8 9#8 0#64 s ∧ exec .prgperiod s = failed 1#8 9#8 0#64 s) ∧
    (s.lcgM = 0#64 → exec .prggen s = failed 1#8 9#8 0#64 s ∧ exec .prggenn s = failed 1#8 9#8 0#64 s)

/-- RESULT is the register at 0x0B8; host writes to it are ignored; it is 0 after reset; a successful PRGGEN or
PRGGENN leaves in it the new LCG_S, a successful PRGPERIOD the period length, and no other command changes it.
(stated: R45) -/
def Obligations.ResultIsWrittenByThePrgCommands : Prop :=
  regAt 0x0B8 = some .result ∧ (∀ (v : Word64) (s : State), writeReg .result v s = s) ∧
    readReg .result State.reset = 0#64 ∧
    (∀ (i : Instr) (s t : State), exec i s = .next t → s.errCode = 0#8 →
      (i = .prggen ∨ i = .prggenn → t.errCode = 0#8 → readReg .result t = t.lcgS) ∧
      (i = .prgperiod → t.errCode = 0#8 →
        (readReg .result t) = BitVec.ofNat 64 (lcgPeriod s.prgA s.prgC s.prgM s.prgSeed)) ∧
      (i ≠ .prggen → i ≠ .prggenn → i ≠ .prgperiod → readReg .result t = readReg .result s))

/-- The four registers stand at 0x098 to 0x0B0, ignore host writes and are 0 after reset and after a soft reset. A
successful PRGLOAD writes the staged values, and never a zero modulus; a successful PRGGEN or PRGGENN writes LCG_S
(one step, PRG_N steps); no other command changes any of them, and no host access but a soft reset. (stated: R41, R42,
R44) -/
def Obligations.LiveGeneratorIsWrittenByItsCommands : Prop :=
  regAt 0x098 = some .lcgA ∧ regAt 0x0A0 = some .lcgC ∧ regAt 0x0A8 = some .lcgM ∧ regAt 0x0B0 = some .lcgS ∧
    (∀ r ∈ [Reg.lcgA, .lcgC, .lcgM, .lcgS], (∀ (v : Word64) (s : State), writeReg r v s = s) ∧
      readReg r State.reset = 0#64 ∧ (∀ s : State, readReg r (softReset s) = 0#64 ∧ readReg r (powerOnReset s) = 0#64)) ∧
    (∀ (i : Instr) (s t : State), exec i s = .next t → s.errCode = 0#8 →
      (i = .prgload → t.errCode = 0#8 →
        t.lcgA = s.prgA ∧ t.lcgC = s.prgC ∧ t.lcgM = s.prgM ∧ t.lcgS = s.prgSeed ∧ t.lcgM ≠ 0#64) ∧
      (i = .prggen → t.errCode = 0#8 → t.lcgS = lcgSteps s.lcgA s.lcgC s.lcgM 1 s.lcgS) ∧
      (i = .prggenn → t.errCode = 0#8 → t.lcgS = lcgSteps s.lcgA s.lcgC s.lcgM s.prgN.toNat s.lcgS) ∧
      (i ≠ .prgload → t.lcgA = s.lcgA ∧ t.lcgC = s.lcgC ∧ t.lcgM = s.lcgM) ∧
      (i ≠ .prgload → i ≠ .prggen → i ≠ .prggenn → t.lcgS = s.lcgS)) ∧
    (∀ (s t : State) (a : Access) (ts : List Turn), s.turns = .host a :: ts → isSoftReset a = false → step s = .next t →
      t.lcgA = s.lcgA ∧ t.lcgC = s.lcgC ∧ t.lcgM = s.lcgM ∧ t.lcgS = s.lcgS)

/-- A successful DIGEST sets OUT_LEN to 16, KEYEXP to 4t = 8*(r+1), ENCCBC to 16 + 8*floor(L/8), DECCBC to max(L-8,
0); every buffer byte outside that many from DST_ADDR on is unchanged. No other command writes OUT_LEN. Host writes to
it are ignored. (stated: R46) -/
def Obligations.OutLenCountsTheBytesWritten : Prop :=
  regAt 0x0C0 = some .outLen ∧ (∀ (v : Word64) (s : State), writeReg .outLen v s = s) ∧
    readReg .outLen State.reset = 0#64 ∧
    (∀ (i : Instr) (s t : State), Memory.wf s.buf → exec i s = .next t → s.errCode = 0#8 →
      (t.errCode = 0#8 →
        (i = .digest → t.outLen.toNat = 16) ∧
        (i = .keyexp → t.outLen.toNat = 4 * (2 * (roundsOf s + 1))) ∧
        (i = .enccbc → t.outLen.toNat = 16 + 8 * (s.srcLen.toNat / 8)) ∧
        (i = .deccbc → t.outLen.toNat = s.srcLen.toNat - 8) ∧
        (i ∈ [Instr.digest, .keyexp, .enccbc, .deccbc] → ∀ x,
          (x < s.dstAddr.toNat ∨ s.dstAddr.toNat + t.outLen.toNat ≤ x) → Memory.read t.buf x = Memory.read s.buf x)) ∧
      (i ∉ [Instr.digest, .keyexp, .enccbc, .deccbc] → t.outLen = s.outLen ∧ t.buf = s.buf))

/-- The registers stand at 0x0C8 and 0x0D0 and ignore host writes; a successful DIGEST writes LE64 of digest bytes 0
to 7 and 8 to 15, which the buffer holds at DST_ADDR too; no other command changes them. (stated: R47, R48) -/
def Obligations.DigestRegistersHoldTheLastDigest : Prop :=
  regAt 0x0C8 = some .digestLo ∧ regAt 0x0D0 = some .digestHi ∧
    (∀ r ∈ [Reg.digestLo, .digestHi], (∀ (v : Word64) (s : State), writeReg r v s = s) ∧
      readReg r State.reset = 0#64) ∧
    (∀ (i : Instr) (s t : State), Memory.wf s.buf → exec i s = .next t → s.errCode = 0#8 →
      (i = .digest → t.errCode = 0#8 →
        t.digestLo = le64 (bufRead t.buf s.dstAddr.toNat 8) ∧ t.digestHi = le64 (bufRead t.buf (s.dstAddr.toNat + 8) 8) ∧
        t.digestLo = le64 ((digest16 (sourceOf s)).take 8) ∧ t.digestHi = le64 ((digest16 (sourceOf s)).drop 8)) ∧
      (i ≠ .digest → t.digestLo = s.digestLo ∧ t.digestHi = s.digestHi))

/-- Each of the 27 offsets 0x000 to 0x0D0 names the register of 10_state.md R21; at reset ID reads 0x0000000145524F43
and every other register reads 0. (derived: 10_state.md section 1 (R21, R22), 70_reset_and_hazards.md R280) -/
def Obligations.RegisterMapAndResetValues : Prop :=
  [0x000, 0x008, 0x010, 0x018, 0x020, 0x028, 0x030, 0x038, 0x040, 0x048, 0x050, 0x058, 0x060, 0x068, 0x070, 0x078,
      0x080, 0x088, 0x090, 0x098, 0x0A0, 0x0A8, 0x0B0, 0x0B8, 0x0C0, 0x0C8, 0x0D0].map regAt =
      [some Reg.id, some .ctrl, some .status, some .cmd, some .err, some .errInfo, some .srcAddr, some .srcLen,
       some .dstAddr, some .keyAddr, some .cipherCfg, some .iv, some .blkA, some .blkB, some .prgA, some .prgC,
       some .prgM, some .prgSeed, some .prgN, some .lcgA, some .lcgC, some .lcgM, some .lcgS, some .result, some .outLen,
       some .digestLo, some .digestHi] ∧
    ∀ r : Reg, readReg r State.reset = if r = .id then 0x0000000145524F43#64 else 0#64

/-- In every state IRQ is the conjunction of bit 1 of STATUS and bit 0 of CTRL as they read; after reset, and after a
soft or power-on reset of any state, it is 0. (stated: R52) -/
def Obligations.IrqIsDoneAndEnable : Prop :=
  (∀ s : State, irq s = ((readReg .status s).getLsbD 1 && (readReg .ctrl s).getLsbD 0)) ∧ irq State.reset = false ∧
    (∀ s : State, irq (softReset s) = false ∧ irq (powerOnReset s) = false)

/-- Bit 0 is 1 exactly while a command executes, bit 1 is DONE, bit 2 is 1 exactly when ERR.CODE is not 0, bit 3 is
HAZ, and every higher bit reads 0. ERR reads CODE + 256*CAUSE. (derived: 10_state.md section 1 (R24, R26)) -/
def Obligations.StatusReadsItsFourBits : Prop :=
  ∀ s : State, ((readReg .status s).getLsbD 0 = true ↔ s.phase = .busy) ∧ (readReg .status s).getLsbD 1 = s.done ∧
    ((readReg .status s).getLsbD 2 = true ↔ (readReg .err s).toNat % 256 ≠ 0) ∧ (readReg .status s).getLsbD 3 = s.haz ∧
    (∀ k, 4 ≤ k → (readReg .status s).getLsbD k = false) ∧
    (readReg .err s).toNat = s.errCode.toNat + 256 * s.errCause.toNat

/-- A host read of the register at its offset, whatever the phase, answers its current value on the bus and leaves
every register, flag and buffer byte as it was, HAZ too. (derived: 43_system.md section 2 (R232),
70_reset_and_hazards.md R289, 20_memory.md R80) -/
def Obligations.RegisterReadsChangeNothing : Prop :=
  ∀ (s : State) (r : Reg) (ts : List Turn), s.turns = .host ⟨regOffset r, 8, .read⟩ :: ts →
    step s = .next { s with turns := ts, resp := .data 8 (readReg r s) }

/-- For every 8-byte-aligned offset from 0x0D8 to 0xFF8: an 8-byte read answers 0 and an 8-byte write is taken without
any effect, whatever the phase. (stated: R49) -/
def Obligations.ReservedOffsetsReadZeroAndIgnoreWrites : Prop :=
  ∀ (s : State) (w : Nat) (ts : List Turn), 0x0D8 ≤ w → w ≤ 0xFF8 → w % 8 = 0 →
    regAt w = none ∧
    (s.turns = .host ⟨w, 8, .read⟩ :: ts → step s = .next { s with turns := ts, resp := .data 8 0#64 }) ∧
    (∀ v, s.turns = .host ⟨w, 8, .write v⟩ :: ts → step s = .next { s with turns := ts, resp := .written })

/-- With BUSY = 0, an 8-byte write of v to an operand register makes it read v with the bits outside its fields 0
(CIPHER_CFG keeps 15:0, BLK_A and BLK_B keep 31:0, the others all 64); every other register reads as before and the
buffer is unchanged. (derived: 43_system.md section 2 (R233), 10_state.md R28 to R40) -/
def Obligations.IdleOperandWritesKeepTheFields : Prop :=
  ∀ (s : State) (r : Reg) (v : Word64) (ts : List Turn), s.phase = .idle →
    r ∈ [Reg.srcAddr, .srcLen, .dstAddr, .keyAddr, .cipherCfg, .iv, .blkA, .blkB, .prgA, .prgC, .prgM, .prgSeed, .prgN] →
    s.turns = .host ⟨regOffset r, 8, .write v⟩ :: ts →
    ∃ t, step s = .next t ∧ readReg r t = v &&& fieldMask r ∧ (∀ q : Reg, q ≠ r → readReg q t = readReg q s) ∧
      t.buf = s.buf ∧ t.turns = ts ∧ t.resp = .written ∧ t.draws = s.draws

/-- A host write of v to STATUS leaves DONE set only if it was and v[1] = 0, HAZ set only if it was and v[3] = 0, and
every other field as it was, whatever the phase. (derived: 43_system.md section 2 (R233), 10_state.md R24) -/
def Obligations.StatusWritesClearByWritingOne : Prop :=
  ∀ (s : State) (v : Word64) (ts : List Turn), s.turns = .host ⟨0x010, 8, .write v⟩ :: ts →
    step s = .next { s with done := s.done && !v.getLsbD 1, haz := s.haz && !v.getLsbD 3, turns := ts, resp := .written }

/-- With BUSY = 1: an 8-byte write to 0x018 or to an operand register (0x030 to 0x090), and a buffer write, change HAZ
to 1 and nothing else. Whether or not BUSY = 1 (as 43_system.md R233 says too): a CTRL write with bit 1 = 0 sets IE to
bit 0 and changes nothing else; one with bit 1 = 1 leaves the engine idle and every register at its reset value; a
STATUS write clears DONE and HAZ by its bits 1 and 3 and changes nothing else; a write to a read-only register or a
reserved offset changes nothing. (stated: R287) -/
def Obligations.WritesWhileBusyAreDropped : Prop :=
  ∀ (s : State) (a : Access) (v : Word64) (ts : List Turn), s.turns = .host a :: ts → a.kind = .write v →
    (s.phase = .busy → registerAccessOk a → (a.off = 0x018 ∨ (0x030 ≤ a.off ∧ a.off ≤ 0x090)) →
      step s = .next { s with haz := true, turns := ts, resp := .written }) ∧
    (∀ k, s.phase = .busy → bufferAccessOk a k → step s = .next { s with haz := true, turns := ts, resp := .written }) ∧
    (registerAccessOk a → a.off = 0x008 → v.getLsbD 1 = false →
      step s = .next { s with ie := v.getLsbD 0, turns := ts, resp := .written }) ∧
    (registerAccessOk a → a.off = 0x008 → v.getLsbD 1 = true →
      ∃ t, step s = .next t ∧ t.phase = .idle ∧ ∀ r, readReg r t = regResetValue r) ∧
    (registerAccessOk a → a.off = 0x010 →
      step s = .next
        { s with done := s.done && !v.getLsbD 1, haz := s.haz && !v.getLsbD 3, turns := ts, resp := .written }) ∧
    (registerAccessOk a → (a.off = 0x000 ∨ a.off = 0x020 ∨ a.off = 0x028 ∨ 0x098 ≤ a.off) →
      step s = .next { s with turns := ts, resp := .written })

/-- With BUSY = 1 a legal host buffer read of n bytes answers data of n bytes whose value is below 2^(8n) (which value
is not said), sets HAZ, and leaves all else as it was but for the model's count of free values. (stated: R288) -/
def Obligations.BufferReadsWhileBusySetHaz : Prop :=
  ∀ (s : State) (a : Access) (k : Nat) (ts : List Turn), s.phase = .busy → s.turns = .host a :: ts → a.kind = .read →
    bufferAccessOk a k →
    ∃ (t : State) (x : Word64), step s = .next t ∧ x.toNat < 2 ^ (8 * a.width) ∧
      t = { s with haz := true, turns := ts, resp := .data a.width x, draws := t.draws } ∧ latchedOf t = latchedOf s

/-- With BUSY = 1, a host access that is no soft reset leaves the command word, every operand register, the live
generator and the buffer, and also RESULT, OUT_LEN, the digest registers, ERR and ERR_INFO, as they were, and BUSY =
1. This is why the model may read live registers (log 4). (derived: 10_state.md R55, 70_reset_and_hazards.md R287 to
R289) -/
def Obligations.WhatTheCommandWasGivenStays : Prop :=
  ∀ (s t : State) (a : Access) (ts : List Turn), s.phase = .busy → s.turns = .host a :: ts → isSoftReset a = false →
    step s = .next t →
    latchedOf t = latchedOf s ∧ t.phase = .busy ∧ t.result = s.result ∧ t.outLen = s.outLen ∧
      t.digestLo = s.digestLo ∧ t.digestHi = s.digestHi ∧ t.errCode = s.errCode ∧ t.errCause = s.errCause ∧
      t.errInfo = s.errInfo ∧ t.turns = ts

/-- With BUSY = 1, let any finite list of host accesses come before the engine's turn, bus errors and hazards among
them but no soft reset. The state after them and the completion is the state of completing at once, but for CTRL.IE,
HAZ, the bus's last answer and the model's count of free values. (derived: 10_state.md R55, 60_exceptions.md R252,
70_reset_and_hazards.md R293) -/
def Obligations.ResultsDoNotDependOnTheInterleaving : Prop :=
  ∀ (accs : List Access) (s : State) (ts : List Turn), s.phase = .busy →
    (∀ a ∈ accs, isSoftReset a = false) → s.turns = accs.map Turn.host ++ .engine :: ts →
    ∃ now later, step { s with turns := .engine :: ts } = .next now ∧
      Host.Core.run core (accs.length + 1) s = .next later ∧
      { later with ie := now.ie, haz := now.haz, resp := now.resp, draws := now.draws } = now

/-- Whatever the phase and bit 0 of the write: after it every register reads its reset value, the engine is idle, IRQ
is 0; every buffer byte outside the output range (DST_ADDR, output length) of a command that was executing is as
before, and all are where none was executing or the command is ENCBLK, DECBLK or a PRG command. The model's inferences
and choices, which no rule states: NOP and a word that encodes no command have no output range either, so all bytes
stay (log 7, DEDUCED: R46 and R283 name none for them); the turns still to come stay (log 20, DESIGN CHOICE); the
buffer is in the model's canonical form (log 5). (derived: 70_reset_and_hazards.md section 1 (R282 to R284)) -/
def Obligations.SoftResetClearsTheRegisters : Prop :=
  ∀ (s : State) (v : Word64) (ts : List Turn), Memory.wf s.buf → s.turns = .host ⟨0x008, 8, .write v⟩ :: ts →
    v.getLsbD 1 = true →
    ∃ t, step s = .next t ∧ (∀ r : Reg, readReg r t = if r = .id then 0x0000000145524F43#64 else 0#64) ∧
      t.phase = .idle ∧ irq t = false ∧ t.turns = ts ∧
      (s.phase = .idle → t.buf = s.buf) ∧ (∀ e, decode s.cmd = .error e → t.buf = s.buf) ∧
      (∀ i, decode s.cmd = .ok i → i ∈ [Instr.nop, .encblk, .decblk, .prgload, .prggen, .prggenn, .prgperiod] →
        t.buf = s.buf) ∧
      (∀ i, decode s.cmd = .ok i → ∀ x, (x < s.dstAddr.toNat ∨ s.dstAddr.toNat + outputLength i s ≤ x) →
        Memory.read t.buf x = Memory.read s.buf x)

/-- Whatever the state, after a power-on turn every register reads its reset value, STATUS and CTRL.IE are 0, the
engine is idle, IRQ is 0, and the buffer's bytes are not said. The model's own: the buffer is in its canonical form
(logs 5 and 6), and the turns still to come stay (log 20, DESIGN CHOICE). (derived: 70_reset_and_hazards.md section 1
(R280, R281)) -/
def Obligations.PowerOnResetClearsTheRegisters : Prop :=
  ∀ (s : State) (ts : List Turn), s.turns = .powerOn :: ts →
    ∃ t, step s = .next t ∧ (∀ r : Reg, readReg r t = if r = .id then 0x0000000145524F43#64 else 0#64) ∧
      t.phase = .idle ∧ irq t = false ∧ Memory.wf t.buf ∧ t.turns = ts

/-- With BUSY = 0, a host write of n = 1, 2, 4 or 8 bytes at a buffer offset k that is a multiple of n makes BUF[k+i]
the byte v[8i+7:8i] for i below n, and leaves every other byte and every register as it was. (For buffers in canonical
form.) (derived: 43_system.md section 2 (R235), 20_memory.md R73, R75) -/
def Obligations.HostBufferWritesStoreTheirBytes : Prop :=
  ∀ (s : State) (a : Access) (k : Nat) (v : Word64) (ts : List Turn), Memory.wf s.buf → s.phase = .idle →
    s.turns = .host a :: ts → a.kind = .write v → bufferAccessOk a k →
    ∃ t, step s = .next t ∧ { t with buf := s.buf } = { s with turns := ts, resp := .written } ∧
      (∀ i, i < a.width → Memory.read t.buf (k + i) = v.extractLsb' (8 * i) 8) ∧
      (∀ x, (x < k ∨ k + a.width ≤ x) → Memory.read t.buf x = Memory.read s.buf x)

/-- With BUSY = 0, from every state: a legal host read of n bytes at k answers n bytes of data whose byte i is
BUF[k+i], the bits above them 0, and changes no register, no flag (HAZ neither) and no buffer byte. And after a host
write of v, n bytes at k, a host read of m bytes at j with k <= j and j + m <= k + n answers the bits of v from
8*(j-k) on, 8*m of them; every register is as before the write, and every byte outside the n written. (The second for
buffers in canonical form, log 5.) (derived: 20_memory.md section 2 (R73, R74), 20_memory.md R80, 43_system.md R234,
R235) -/
def Obligations.BufferWriteThenNarrowerRead : Prop :=
  (∀ (s : State) (a : Access) (k : Nat) (ts : List Turn), s.phase = .idle → s.turns = .host a :: ts → a.kind = .read →
    bufferAccessOk a k →
    ∃ x : Word64, step s = .next { s with turns := ts, resp := .data a.width x } ∧ x.toNat < 2 ^ (8 * a.width) ∧
      ∀ i, i < a.width → x.extractLsb' (8 * i) 8 = Memory.read s.buf (k + i)) ∧
  ∀ (s : State) (k n j m : Nat) (v : Word64) (ts : List Turn), Memory.wf s.buf → s.phase = .idle →
    bufferAccessOk ⟨0x10000 + k, n, .write v⟩ k → bufferAccessOk ⟨0x10000 + j, m, .read⟩ j → k ≤ j → j + m ≤ k + n →
    s.turns = .host ⟨0x10000 + k, n, .write v⟩ :: .host ⟨0x10000 + j, m, .read⟩ :: ts →
    ∃ t, Host.Core.run core 2 s = .next t ∧
      { t with buf := s.buf } =
        { s with turns := ts,
                 resp := .data m (BitVec.ofNat 64 (v.toNat / 2 ^ (8 * (j - k)) % 2 ^ (8 * m))) } ∧
      (∀ x, (x < k ∨ k + n ≤ x) → Memory.read t.buf x = Memory.read s.buf x)

/-- With BUSY = 0, performing the accesses of `wrbuf k, bytes` one after another, the sequence inside the buffer,
leaves BUF[k..k+n) = bytes, every other byte as it was, and every register as it was. (derived: 30_encoding.md section
4 (R110, R111)) -/
def Obligations.WrbufStoresTheByteSequence : Prop :=
  ∀ (s : State) (k : Nat) (bs : List Byte) (ts : List Turn), Memory.wf s.buf → s.phase = .idle →
    k + bs.length ≤ 65536 → s.turns = scriptWrbuf k bs ++ ts →
    ∃ t, Host.Core.run core (scriptWrbuf k bs).length s = .next t ∧ bufferHolds t.buf s.buf k bs ∧
      { t with buf := s.buf, resp := s.resp } = { s with turns := ts }

/-- Whatever the phase, a host access to offsets 0x01000 to 0x0FFFF, a register access that is not 8 bytes wide and
aligned, and a buffer access that is not 1, 2, 4 or 8 bytes wide and naturally aligned each get an error response, and
every register, STATUS bit (HAZ and BUSY too) and buffer byte is as before; an access of the register or buffer window
that is neither gets none. The model's choices: the response carries the reason (log 3, DESIGN CHOICE), and an access
at or past 0x20000, which CORE does not decode, changes nothing either and has the model's response elsewhere (log 12,
DESIGN CHOICE). (derived: 20_memory.md sections 1 and 3 (R71, R75 to R77), 60_exceptions.md R244) -/
def Obligations.BusErrorsAreExactlyTheRefusedAccesses : Prop :=
  ∀ (s : State) (a : Access) (ts : List Turn), s.turns = .host a :: ts →
    (0x1000 ≤ a.off → a.off < 0x10000 → step s = .next { s with turns := ts, resp := .error (.unmapped a.off) }) ∧
    (a.off < 0x1000 → (a.width ≠ 8 ∨ a.off % 8 ≠ 0) →
      step s = .next { s with turns := ts, resp := .error (.badRegisterAccess a.off a.width) }) ∧
    (0x10000 ≤ a.off → a.off < 0x20000 → (a.width ∉ [1, 2, 4, 8] ∨ a.off % a.width ≠ 0) →
      step s = .next { s with turns := ts, resp := .error (.badBufferAccess a.off a.width) }) ∧
    (0x20000 ≤ a.off → step s = .next { s with turns := ts, resp := .elsewhere }) ∧
    ((registerAccessOk a ∨ ∃ k, bufferAccessOk a k) →
      ∃ t, step s = .next t ∧ t.resp ≠ .elsewhere ∧ ∀ f, t.resp ≠ .error f)

/-- Every step of every state answers a next state. A host access of any kind, legal or not, idle or BUSY, is
performed and answered in its own step, and the answer is an error response exactly for a bus error. From a BUSY
state, after any finite list of host accesses with no soft reset among them, bus errors and hazards included, and one
engine turn, the command has completed: BUSY = 0 and DONE = 1. The same where no turn is listed after the accesses
(log 2, DEDUCED). (derived: 70_reset_and_hazards.md section 4 (R294), 60_exceptions.md R240, 20_memory.md R77) -/
def Obligations.EveryHostAccessAndEveryCommandCompletes : Prop :=
  (∀ s : State, ∃ t, step s = .next t) ∧
    (∀ (s : State) (a : Access) (ts : List Turn), s.turns = .host a :: ts →
      ∃ t, step s = .next t ∧ t.turns = ts ∧ t.resp ≠ .none ∧ (isBusError a = true ↔ ∃ f, t.resp = .error f)) ∧
    ∀ (accs : List Access) (s : State) (ts : List Turn), s.phase = .busy → (∀ a ∈ accs, isSoftReset a = false) →
      (s.turns = accs.map Turn.host ++ .engine :: ts ∨ (s.turns = accs.map Turn.host ∧ ts = [])) →
      ∃ t, Host.Core.run core (accs.length + 1) s = .next t ∧ t.phase = .idle ∧ t.done = true ∧ t.turns = ts

/-- From a state with HAZ = 0, if each of the next n turns is an engine turn, a power-on, or a host access that is, in
the state it meets, no hazard, the n steps are all taken and HAZ is 0 at the end: a bus error is no hazard either
(R77). A step with no turn listed counts as the engine's (log 2, DEDUCED). (derived: 70_reset_and_hazards.md section 3
(R287, R288), 60_exceptions.md R245, 20_memory.md R77) -/
def Obligations.DutifulHostsSetNoHazard : Prop :=
  ∀ (n : Nat) (s : State), s.haz = false → safeTurns n s = true →
    ∃ t, Host.Core.run core n s = .next t ∧ t.haz = false

/-- For every message of L bytes there is z, below 64 and so the least with L + 1 + z congruent to 56 modulo 64, such
that Pad is the message, 0x80, z zero bytes and the length field; its length is L + 1 + z + 8, a multiple of 64, and
floor((L+8)/64) + 1 blocks. The length field has eight bytes, byte k being bits 8k+7 to 8k of (8*L) mod 2^64; for L up
to 65536 they spell 8*L itself. (stated: R131, R132) -/
def Obligations.DigestPaddingFillsBlocks : Prop :=
  (∀ msg : List Byte, ∃ z, z < 64 ∧ (msg.length + 1 + z) % 64 = 56 ∧ ((z : Int) = (55 - (msg.length : Int)) % 64) ∧
    digestPad msg = msg ++ [0x80#8] ++ List.replicate z 0x00#8 ++ lenField msg.length ∧
    (digestPad msg).length = msg.length + 1 + z + 8 ∧ (digestPad msg).length % 64 = 0 ∧
    (digestPad msg).length / 64 = (msg.length + 8) / 64 + 1) ∧
    ∀ l : Nat, (lenField l).length = 8 ∧
      (∀ k, k < 8 → (lenField l).getD k 0#8 = BitVec.ofNat 8 ((8 * l) % 2 ^ 64 / 2 ^ (8 * k))) ∧
      (l ≤ 65536 → leNat (lenField l) = 8 * l)

/-- For key bytes whose number b is a positive multiple of 4: L[j] is LE32 of key bytes 4j to 4j+3 for j below b/4 -
1, and the last word is LE32 of the three key bytes b-4 to b-2 and 0. (derived: 41_cipher.md section 2 (R161)) -/
def Obligations.KeyFoldDropsTheLastByte : Prop :=
  ∀ key : List Byte, key ≠ [] → key.length % 4 = 0 →
    (foldKey key).length = key.length / 4 ∧
    (∀ j, j + 1 < key.length / 4 → (foldKey key).getD j 0#32 = le32 (slice key (4 * j) 4)) ∧
    (foldKey key).getD (key.length / 4 - 1) 0#32 = le32 (slice key (key.length - 4) 3 ++ [0#8])

/-- For key bytes whose number is a multiple of 4, replacing the last byte by any other leaves ExpandKey unchanged,
for every round count. (derived: 41_cipher.md section 2 (R161)) -/
def Obligations.LastKeyByteHasNoEffect : Prop :=
  ∀ (key : List Byte) (x y : Byte) (r : Nat), (key.length + 1) % 4 = 0 →
    expandKey (key ++ [x]) r = expandKey (key ++ [y]) r

/-- For every r: the initial schedule has t = 2*(r+1) words, word 0 is 0xb7e15163 and word i is word i-1 plus
0x9e3779b9, modulo 2^32, for i from 1 to t-1; and so word i is 0xb7e15163 + i*0x9e3779b9. (stated: R162) -/
def Obligations.ScheduleStartsFromTheConstants : Prop :=
  ∀ r : Nat, (schedInit (2 * (r + 1))).length = 2 * (r + 1) ∧ (schedInit (2 * (r + 1))).getD 0 0#32 = 0xb7e15163#32 ∧
    (∀ i, 1 ≤ i → i < 2 * (r + 1) →
      (schedInit (2 * (r + 1))).getD i 0#32 = (schedInit (2 * (r + 1))).getD (i - 1) 0#32 + 0x9e3779b9#32) ∧
    (∀ i, i < 2 * (r + 1) →
      (schedInit (2 * (r + 1))).getD i 0#32 = 0xb7e15163#32 + BitVec.ofNat 32 i * 0x9e3779b9#32)

/-- For every list of schedule words S, every r and every pair: decrypting the encryption gives the pair back, and so
does encrypting the decryption. (derived: 41_cipher.md section 3 (R165, R166)) -/
def Obligations.DecryptBlockInvertsEncryptBlock : Prop :=
  ∀ (S : List Word32) (r : Nat) (p : WordPair),
    decryptBlock S r (encryptBlock S r p) = p ∧ encryptBlock S r (decryptBlock S r p) = p

/-- With operands that pass CipherCheck, the completion of ENCBLK followed by that of DECBLK, and of DECBLK followed
by that of ENCBLK, leaves the start state with BUSY = 0 and DONE = 1. (derived: 41_cipher.md section 4 (R168, R169))
-/
def Obligations.DecblkAfterEncblkRestoresTheBlock : Prop :=
  ∀ s : State, cipherLegal s →
    (∃ t, exec .encblk s = .next t ∧ exec .decblk t = .next { s with phase := .idle, done := true }) ∧
    (∃ t, exec .decblk s = .next t ∧ exec .encblk t = .next { s with phase := .idle, done := true })

/-- For every list of schedule words, round count, IV and plaintext: chained decryption of the chained encryption is
the plaintext followed by n bytes of value n, n = 8 - (L mod 8). (derived: 41_cipher.md section 5 (R170 to R175,
R177)) -/
def Obligations.ChainedDecryptionInvertsEncryption : Prop :=
  ∀ (S : List Word32) (r : Nat) (iv : Word64) (pt : List Byte),
    decChain S r (encChain S r iv pt) =
      pt ++ List.replicate (8 - pt.length % 8) (BitVec.ofNat 8 (8 - pt.length % 8))

/-- Take a state in which ENCCBC succeeds. After it, set SRC_ADDR and SRC_LEN to its output, DST_ADDR to any place in
range for 8 bytes less that meets neither that output nor the key, and let DECCBC execute: it completes without error,
its output is the plaintext followed by n bytes of value n, every other byte is as after ENCCBC, and OUT_LEN is the
length. (stated: R177) -/
def Obligations.DeccbcAfterEnccbcRecoversThePlaintext : Prop :=
  ∀ s : State, Memory.wf s.buf → cipherLegal s → s.srcAddr.toNat + s.srcLen.toNat ≤ 65536 →
    s.dstAddr.toNat + (16 + 8 * (s.srcLen.toNat / 8)) ≤ 65536 →
    ¬ rangesMeet s.dstAddr.toNat (16 + 8 * (s.srcLen.toNat / 8)) s.srcAddr.toNat s.srcLen.toNat →
    ¬ rangesMeet s.dstAddr.toNat (16 + 8 * (s.srcLen.toNat / 8)) s.keyAddr.toNat (keyLenOf s) →
    ∃ t, exec .enccbc s = .next t ∧ ∀ d : Word64, d.toNat + 8 * (s.srcLen.toNat / 8 + 1) ≤ 65536 →
      ¬ rangesMeet d.toNat (8 * (s.srcLen.toNat / 8 + 1)) s.dstAddr.toNat (16 + 8 * (s.srcLen.toNat / 8)) →
      ¬ rangesMeet d.toNat (8 * (s.srcLen.toNat / 8 + 1)) s.keyAddr.toNat (keyLenOf s) →
      ∃ u, exec .deccbc { t with srcAddr := s.dstAddr, srcLen := t.outLen, dstAddr := d, phase := .busy, done := false }
          = .next u ∧
        u.errCode = s.errCode ∧ u.outLen.toNat = 8 * (s.srcLen.toNat / 8 + 1) ∧
        bufferHolds u.buf t.buf d.toNat (sourceOf s ++
          List.replicate (8 - s.srcLen.toNat % 8) (BitVec.ofNat 8 (8 - s.srcLen.toNat % 8)))

/-- For 64-bit a, c, s and m at least 1: the step's number is the remainder of the unbounded a*s + c by m; it is below
m; and a*s + c is at most 2^128 - 2^64. (stated: R210) -/
def Obligations.GeneratorStepIsExact : Prop :=
  ∀ a c m s : Word64, m ≠ 0#64 →
    (lcgNext a c m s).toNat = (a.toNat * s.toNat + c.toNat) % m.toNat ∧ (lcgNext a c m s).toNat < m.toNat ∧
    a.toNat * s.toNat + c.toNat ≤ 2 ^ 128 - 2 ^ 64

/-- For m at least 1 there are a tail mu and a cycle length lambda, the Period returned, with 1 <= lambda <= m: every
value after the first step is below m, from index mu on the sequence repeats every lambda steps and no sooner, phase 1
meets on the cycle within mu + lambda iterations, and phase 2 counts lambda steps. That mu + lambda is at most m + 1,
and that phase 1 therefore meets within the model's bound of m + 1 iterations, is the model's inference from R216,
which names no such bound (log 15, DEDUCED). (derived: 42_prg.md section 2 (R214, R216)) -/
def Obligations.PeriodIsTheCycleLength : Prop :=
  ∀ a c m s : Word64, m ≠ 0#64 →
    1 ≤ lcgPeriod a c m s ∧ lcgPeriod a c m s ≤ m.toNat ∧
    (∀ n, 1 ≤ n → (lcgSteps a c m n s).toNat < m.toNat) ∧
    ∃ mu, mu + lcgPeriod a c m s ≤ m.toNat + 1 ∧
      (∀ n, mu ≤ n → lcgSteps a c m (n + lcgPeriod a c m s) s = lcgSteps a c m n s) ∧
      (∀ n q, mu ≤ n → 0 < q → q < lcgPeriod a c m s → lcgSteps a c m (n + q) s ≠ lcgSteps a c m n s) ∧
      (∃ k, 1 ≤ k ∧ k ≤ mu + lcgPeriod a c m s ∧ mu ≤ k ∧ lcgSteps a c m k s = lcgSteps a c m (2 * k) s ∧
        floydMeet a c m (m.toNat + 1) s s = lcgSteps a c m k s)

/-- From every state in which the buffer is canonical, a busy engine has DONE and ERR clear, ERR holds only defined
codes and causes (and ILLEGAL_COMMAND the command word as ERR_INFO), a zero LCG_M comes with zero LCG_A, LCG_C and
LCG_S, and OUT_LEN is at most the buffer's size, a step that answers a next state answers one of which the same holds.
(The canonical form is the model's own.) (derived: 60_exceptions.md R241 to R243, R251, R252, 10_state.md R26, R43,
R46, R51) -/
def Obligations.EveryStepKeepsTheInvariant : Prop :=
  ∀ s t : State, StateInv s → step s = .next t → StateInv t

/-- The invariant that every step keeps holds of the state after reset. (derived: 70_reset_and_hazards.md section 1
(R280)) -/
def Obligations.ResetSatisfiesTheInvariant : Prop :=
  StateInv State.reset
end

