-- ==== Sys2Proof/Laws/Bits.lean ====
section
/-! SUPPORT. The laws of rotations and byte sequences. -/

namespace Sys2Proof.Machine

/-! ## Rotations -/

/-- The rotation of 00_scope.md R17 is the bit vectors' own. -/
theorem rotl_eq_rotateLeft (x : Word32) (n : Nat) : rotl x n = x.rotateLeft n := by
  simp only [rotl]
  split
  · rename_i h
    have h32 : x >>> 32 = 0#32 := BitVec.ushiftRight_eq_zero (Nat.le_refl _)
    simp [BitVec.rotateLeft, BitVec.rotateLeftAux, h, h32]
  · rfl

/-- The rotation of 00_scope.md R17 is the bit vectors' own. -/
theorem rotr_eq_rotateRight (x : Word32) (n : Nat) : rotr x n = x.rotateRight n := by
  simp only [rotr]
  split
  · rename_i h
    have h32 : x <<< 32 = 0#32 := BitVec.shiftLeft_eq_zero (Nat.le_refl _)
    simp [BitVec.rotateRight, BitVec.rotateRightAux, h, h32]
  · rfl

/-- A rotation right undoes the rotation left by the same amount. -/
@[simp] theorem rotr_rotl (x : Word32) (n : Nat) : rotr (rotl x n) n = x := by
  rw [rotl_eq_rotateLeft, rotr_eq_rotateRight]
  refine BitVec.eq_of_getLsbD_eq fun i hi => ?_
  simp only [BitVec.getLsbD_rotateRight, BitVec.getLsbD_rotateLeft]
  have hn := Nat.mod_lt n (show 0 < 32 by omega)
  by_cases h : i < 32 - n % 32
  · have h1 : ¬ n % 32 + i < n % 32 := by omega
    have h2 : n % 32 + i - n % 32 = i := by omega
    have h3 : n % 32 + i < 32 := by omega
    simp [h, h1, h2, h3]
  · have h1 : i - (32 - n % 32) < n % 32 := by omega
    have h2 : 32 - n % 32 + (i - (32 - n % 32)) = i := by omega
    have h3 : i < 32 := by omega
    simp [h, h1, h2, h3]

/-- A rotation left undoes the rotation right by the same amount. -/
@[simp] theorem rotl_rotr (x : Word32) (n : Nat) : rotl (rotr x n) n = x := by
  rw [rotl_eq_rotateLeft, rotr_eq_rotateRight]
  refine BitVec.eq_of_getLsbD_eq fun i hi => ?_
  simp only [BitVec.getLsbD_rotateRight, BitVec.getLsbD_rotateLeft]
  have hn := Nat.mod_lt n (show 0 < 32 by omega)
  by_cases h : i < n % 32
  · have h1 : ¬ 32 - n % 32 + i < 32 - n % 32 := by omega
    have h2 : 32 - n % 32 + i - (32 - n % 32) = i := by omega
    have h3 : 32 - n % 32 + i < 32 := by omega
    simp [h, h1, h2, h3]
  · have h1 : i - n % 32 < 32 - n % 32 := by omega
    have h2 : n % 32 + (i - n % 32) = i := by omega
    have h3 : i < 32 := by omega
    simp [h, h1, h2, h3]

/-! ## Byte sequences -/

@[simp] theorem bytesOf_length {w : Nat} (n : Nat) (v : BitVec w) : (bytesOf n v).length = n := by simp [bytesOf]

@[simp] theorem bytes32_length (x : Word32) : (bytes32 x).length = 4 := by simp [bytes32]

@[simp] theorem bytes64_length (x : Word64) : (bytes64 x).length = 8 := by simp [bytes64]

theorem bytesOf_getElem? {w : Nat} (n : Nat) (v : BitVec w) (k : Nat) (h : k < n) :
    (bytesOf n v)[k]? = some (v.extractLsb' (8 * k) 8) := by simp [bytesOf, h]

theorem leNat_lt (bs : List Byte) : leNat bs < 2 ^ (8 * bs.length) := by
  induction bs with
  | nil => simp [leNat]
  | cons b bs ih =>
    have hb := b.isLt
    simp only [leNat, List.length_cons]
    rw [show 8 * (bs.length + 1) = 8 * bs.length + 8 by omega, Nat.pow_add]
    omega

theorem leNat_append (xs ys : List Byte) : leNat (xs ++ ys) = leNat xs + 2 ^ (8 * xs.length) * leNat ys := by
  induction xs with
  | nil => simp [leNat]
  | cons x xs ih =>
    simp only [List.cons_append, leNat, ih, List.length_cons]
    rw [show 8 * (xs.length + 1) = 8 * xs.length + 8 by omega, Nat.pow_add]
    ring

/-- The number the low `n` bytes of `v` spell is `v` modulo `2^(8n)`. -/
theorem leNat_bytesOf {w : Nat} (n : Nat) (v : BitVec w) : leNat (bytesOf n v) = v.toNat % 2 ^ (8 * n) := by
  induction n with
  | zero => simp [bytesOf, leNat, Nat.mod_one]
  | succ n ih =>
    have hsplit : bytesOf (n + 1) v = bytesOf n v ++ [v.extractLsb' (8 * n) 8] := by
      simp [bytesOf, List.range_succ]
    rw [hsplit, leNat_append, ih]
    simp only [leNat, bytesOf_length, BitVec.extractLsb'_toNat, Nat.shiftRight_eq_div_pow]
    rw [show 8 * (n + 1) = 8 * n + 8 by omega, Nat.pow_add, Nat.mod_mul]
    simp

@[simp] theorem le32_bytes32 (x : Word32) : le32 (bytes32 x) = x := by
  apply BitVec.eq_of_toNat_eq
  have := x.isLt
  simp [le32, bytes32, leNat_bytesOf]
  omega

@[simp] theorem le64_bytes64 (x : Word64) : le64 (bytes64 x) = x := by
  apply BitVec.eq_of_toNat_eq
  have := x.isLt
  simp [le64, bytes64, leNat_bytesOf]
  omega

theorem leNat_inj (xs ys : List Byte) (hl : xs.length = ys.length) (h : leNat xs = leNat ys) : xs = ys := by
  induction xs generalizing ys with
  | nil => cases ys <;> simp_all
  | cons x xs ih =>
    cases ys with
    | nil => simp at hl
    | cons y ys =>
      have hx := x.isLt
      have hy := y.isLt
      simp only [leNat] at h
      have h1 : x = y := BitVec.eq_of_toNat_eq (by omega)
      have h2 := ih ys (by simpa using hl) (by omega)
      rw [h1, h2]

/-- Four bytes are the bytes of the word they spell. -/
theorem bytes32_le32 (bs : List Byte) (h : bs.length = 4) : bytes32 (le32 bs) = bs := by
  refine leNat_inj _ _ (by simp [h]) ?_
  have := leNat_lt bs
  rw [h] at this
  simp only [bytes32, leNat_bytesOf, le32, BitVec.toNat_ofNat]
  omega

/-- Eight bytes are the bytes of the word they spell. -/
theorem bytes64_le64 (bs : List Byte) (h : bs.length = 8) : bytes64 (le64 bs) = bs := by
  refine leNat_inj _ _ (by simp [h]) ?_
  have := leNat_lt bs
  rw [h] at this
  simp only [bytes64, leNat_bytesOf, le64, BitVec.toNat_ofNat]
  omega

/-- At most eight bytes are the low bytes of the 64-bit word they spell. -/
theorem bytesOf_le64 (bs : List Byte) (h : bs.length ≤ 8) : bytesOf bs.length (le64 bs) = bs := by
  refine leNat_inj _ _ (by simp) ?_
  have h1 := leNat_lt bs
  have h2 : 2 ^ (8 * bs.length) ≤ 2 ^ 64 := Nat.pow_le_pow_right (by omega) (by omega)
  rw [leNat_bytesOf, le64, BitVec.toNat_ofNat, Nat.mod_eq_of_lt (Nat.lt_of_lt_of_le h1 h2), Nat.mod_eq_of_lt h1]

/-- Byte `i` of the word at most eight bytes spell (00_scope.md R19, 20_memory.md R73). -/
theorem le64_extractLsb' (bs : List Byte) (h : bs.length ≤ 8) (i : Nat) (hi : i < bs.length) :
    (le64 bs).extractLsb' (8 * i) 8 = bs.getD i 0#8 := by
  have h1 := bytesOf_getElem? bs.length (le64 bs) i hi
  rw [bytesOf_le64 bs h] at h1
  simp [List.getD, h1]

/-- The word at most eight bytes spell is below 2^(8n) (00_scope.md R19). -/
theorem le64_lt (bs : List Byte) : (le64 bs).toNat < 2 ^ (8 * bs.length) := by
  simp only [le64, BitVec.toNat_ofNat]
  exact Nat.lt_of_le_of_lt (Nat.mod_le _ _) (leNat_lt bs)

@[simp] theorem slice_length (msg : List Byte) (i n : Nat) : (slice msg i n).length = min n (msg.length - i) := by
  simp [slice]

end Sys2Proof.Machine
end

