-- ==== Sys2Proof/Laws/Memory.lean ====
section
/-! SUPPORT. The laws of the buffer RAM: what a byte reads as after each memory operation, that every operation keeps the
canonical form, and that the canonical form makes equal buffers equal lists. -/

namespace Sys2Proof.Machine

/-! ## One byte -/

theorem Memory.read_set (m : Memory) (h : m.Pairwise (fun c d => c.1 < d.1)) (a : Nat) (b : Byte) (x : Nat) :
    Memory.read (Memory.set m a b) x = if x = a then b else Memory.read m x := by
  induction m with
  | nil =>
    simp only [Memory.set]
    by_cases hb : b = Config.unwrittenByte <;> by_cases hx : x = a <;> simp [hb, hx, Memory.read]
  | cons c m ih =>
    obtain ⟨k, y⟩ := c
    have htail := (List.pairwise_cons.1 h).1
    have unlisted : ∀ z, (∀ d ∈ m, z < d.1) → Memory.read m z = Config.unwrittenByte := by
      clear ih h htail
      intro z hz
      induction m with
      | nil => rfl
      | cons d m ih =>
        have h1 := hz d (by simp)
        have h2 := ih fun e he => hz e (by simp [he])
        simp only [Memory.read]
        rw [if_neg (by omega), h2]
    simp only [Memory.set]
    by_cases h1 : a < k
    · rw [if_pos h1]
      have hread : Memory.read m a = Config.unwrittenByte := unlisted a fun d hd => by have := htail d hd; omega
      by_cases hb : b = Config.unwrittenByte
      · rw [if_pos hb]
        by_cases hx : x = a
        · subst hx
          have hne : x ≠ k := by omega
          simp [Memory.read, hne, hread, hb]
        · simp [hx]
      · rw [if_neg hb]
        by_cases hx : x = a <;> simp [Memory.read, hx]
    · rw [if_neg h1]
      by_cases h2 : a = k
      · subst h2
        rw [if_pos rfl]
        by_cases hb : b = Config.unwrittenByte
        · rw [if_pos hb]
          by_cases hx : x = a
          · subst hx
            simp [unlisted x fun d hd => htail d hd, hb]
          · simp [Memory.read, hx]
        · rw [if_neg hb]
          by_cases hx : x = a <;> simp [Memory.read, hx]
      · rw [if_neg h2]
        simp only [Memory.read, ih (List.pairwise_cons.1 h).2]
        by_cases hx : x = k
        · subst hx
          simp [Ne.symm h2]
        · simp [hx]

theorem Memory.mem_set (m : Memory) (a : Nat) (b : Byte) (c : Host.Cell) (h : c ∈ Memory.set m a b) :
    c ∈ m ∨ (c = (a, b) ∧ b ≠ Config.unwrittenByte) := by
  induction m with
  | nil =>
    simp only [Memory.set] at h
    split at h <;> simp_all
  | cons d m ih =>
    obtain ⟨k, y⟩ := d
    simp only [Memory.set] at h
    split at h
    · split at h
      · exact .inl h
      · rcases List.mem_cons.1 h with rfl | h
        · exact .inr ⟨rfl, by assumption⟩
        · exact .inl h
    · split at h
      · split at h
        · exact .inl (List.mem_cons_of_mem _ h)
        · rcases List.mem_cons.1 h with rfl | h
          · exact .inr ⟨rfl, by assumption⟩
          · exact .inl (List.mem_cons_of_mem _ h)
      · rcases List.mem_cons.1 h with rfl | h
        · exact .inl (by simp)
        · rcases ih h with h | h
          · exact .inl (List.mem_cons_of_mem _ h)
          · exact .inr h

theorem Memory.set_pairwise (m : Memory) (h : m.Pairwise (fun c d => c.1 < d.1)) (a : Nat) (b : Byte) :
    (Memory.set m a b).Pairwise (fun c d => c.1 < d.1) := by
  induction m with
  | nil =>
    simp only [Memory.set]
    split <;> simp
  | cons c m ih =>
    obtain ⟨k, y⟩ := c
    have ⟨h1, h2⟩ := List.pairwise_cons.1 h
    simp only [Memory.set]
    split
    · split
      · exact h
      · refine List.pairwise_cons.2 ⟨fun d hd => ?_, h⟩
        rcases List.mem_cons.1 hd with rfl | hd
        · assumption
        · have := h1 d hd
          simp only at *
          omega
    · split
      · rename_i _ hk
        split
        · exact h2
        · exact List.pairwise_cons.2 ⟨fun d hd => hk ▸ h1 d hd, h2⟩
      · refine List.pairwise_cons.2 ⟨fun d hd => ?_, ih h2⟩
        rcases Memory.mem_set m a b d hd with hd | ⟨rfl, _⟩
        · exact h1 d hd
        · simp only at *
          omega

/-- What a byte reads as after one byte is written. -/
theorem Memory.read_write (m : Memory) (h : Memory.wf m) (a : Nat) (b : Byte) (x : Nat) :
    Memory.read (Memory.write m a b) x = if x = a ∧ a < Config.bufBytes then b else Memory.read m x := by
  simp only [Memory.write]
  by_cases ha : a < Config.bufBytes
  · simp [ha, Memory.read_set m h.1]
  · simp [ha]

/-- A write keeps the canonical form. -/
theorem Memory.write_wf (m : Memory) (h : Memory.wf m) (a : Nat) (b : Byte) : Memory.wf (Memory.write m a b) := by
  simp only [Memory.write]
  split
  · refine ⟨Memory.set_pairwise m h.1 a b, fun c hc => ?_⟩
    rcases Memory.mem_set m a b c hc with hc | ⟨rfl, hb⟩
    · exact h.2 c hc
    · exact ⟨by assumption, hb⟩
  · exact h

theorem Memory.nil_wf : Memory.wf [] := ⟨List.Pairwise.nil, fun _ h => absurd h (List.not_mem_nil)⟩

/-- An offset past the buffer's end is unlisted. -/
theorem Memory.read_out (m : Memory) (h : Memory.wf m) (a : Nat) (ha : Config.bufBytes ≤ a) :
    Memory.read m a = Config.unwrittenByte := by
  have key : ∀ m : Memory, (∀ c ∈ m, c.1 < Config.bufBytes) → Memory.read m a = Config.unwrittenByte := by
    intro m hm
    induction m with
    | nil => rfl
    | cons c m ih =>
      have h1 := hm c (by simp)
      simp only [Memory.read]
      rw [if_neg (by omega), ih fun d hd => hm d (by simp [hd])]
  exact key m fun c hc => (h.2 c hc).1

/-! ## Sequences of bytes -/

@[simp] theorem bufRead_length (m : Memory) (off n : Nat) : (bufRead m off n).length = n := by simp [bufRead]

theorem bufRead_getElem? (m : Memory) (off n k : Nat) (h : k < n) :
    (bufRead m off n)[k]? = some (Memory.read m (off + k)) := by simp [bufRead, h]

theorem bufRead_getD (m : Memory) (off n k : Nat) (h : k < n) :
    (bufRead m off n).getD k 0#8 = Memory.read m (off + k) := by simp [bufRead, h]

/-- Equal bytes give equal sequences. -/
theorem bufRead_congr (m m' : Memory) (off n : Nat)
    (h : ∀ k, k < n → Memory.read m (off + k) = Memory.read m' (off + k)) : bufRead m off n = bufRead m' off n := by
  simp only [bufRead]
  exact List.map_congr_left fun k hk => h k (List.mem_range.1 hk)

/-- A sequence of writes keeps the canonical form. -/
theorem bufWrite_wf (m : Memory) (h : Memory.wf m) (off : Nat) (bs : List Byte) : Memory.wf (bufWrite m off bs) := by
  induction bs generalizing m off with
  | nil => exact h
  | cons b bs ih => exact ih _ (Memory.write_wf m h off b) _

/-- A byte outside the written range keeps its value. -/
theorem read_bufWrite_out (m : Memory) (h : Memory.wf m) (off : Nat) (bs : List Byte) (x : Nat)
    (hx : x < off ∨ off + bs.length ≤ x) : Memory.read (bufWrite m off bs) x = Memory.read m x := by
  induction bs generalizing m off with
  | nil => rfl
  | cons b bs ih =>
    simp only [List.length_cons] at hx
    simp only [bufWrite]
    rw [ih _ (Memory.write_wf m h off b) (off + 1) (by omega), Memory.read_write m h]
    rw [if_neg (by omega)]

/-- A byte of the written range, inside the buffer, has the value written. -/
theorem read_bufWrite_in (m : Memory) (h : Memory.wf m) (off : Nat) (bs : List Byte) (k : Nat) (hk : k < bs.length)
    (hb : off + k < Config.bufBytes) : Memory.read (bufWrite m off bs) (off + k) = bs.getD k 0#8 := by
  induction bs generalizing m off k with
  | nil => simp at hk
  | cons b bs ih =>
    simp only [bufWrite]
    cases k with
    | zero =>
      rw [read_bufWrite_out _ (Memory.write_wf m h off b) _ _ _ (by omega), Memory.read_write m h]
      have : off < Config.bufBytes := by omega
      simp [this]
    | succ k =>
      simp only [List.length_cons] at hk
      have := ih _ (Memory.write_wf m h off b) (off + 1) k (by omega) (by omega)
      rw [show off + (k + 1) = off + 1 + k by omega, this]
      simp

/-- Reading back a written range gives the bytes written. -/
theorem bufRead_bufWrite (m : Memory) (h : Memory.wf m) (off : Nat) (bs : List Byte)
    (hb : off + bs.length ≤ Config.bufBytes) : bufRead (bufWrite m off bs) off bs.length = bs := by
  refine List.ext_getElem? fun k => ?_
  by_cases hk : k < bs.length
  · rw [bufRead_getElem? _ _ _ _ hk, read_bufWrite_in m h off bs k hk (by omega)]
    simp [List.getD, hk]
  · simp [bufRead, hk]

/-- Writing one sequence after another is writing them joined. -/
theorem bufWrite_append (m : Memory) (off : Nat) (xs ys : List Byte) :
    bufWrite m off (xs ++ ys) = bufWrite (bufWrite m off xs) (off + xs.length) ys := by
  induction xs generalizing m off with
  | nil => simp [bufWrite]
  | cons x xs ih =>
    simp only [List.cons_append, bufWrite, ih, List.length_cons]
    congr 1
    omega

/-- Scrambling a range keeps the canonical form. -/
theorem bufScramble_wf (m : Memory) (h : Memory.wf m) (d off n : Nat) : Memory.wf (bufScramble m d off n) :=
  bufWrite_wf m h _ _

@[simp] theorem freeBytes_length (d off n : Nat) : (freeBytes d off n).length = n := by simp [freeBytes]

/-- Scrambling a range leaves the bytes outside it. -/
theorem read_bufScramble_out (m : Memory) (h : Memory.wf m) (d off n x : Nat) (hx : x < off ∨ off + n ≤ x) :
    Memory.read (bufScramble m d off n) x = Memory.read m x := by
  simp only [bufScramble]
  exact read_bufWrite_out m h _ _ _ (by simp only [freeBytes_length]; omega)

@[simp] theorem bufScramble_zero (m : Memory) (d off : Nat) : bufScramble m d off 0 = m := by
  simp [bufScramble, freeBytes, bufWrite]

/-- The buffer after power-on is in canonical form. -/
theorem powerOnBuffer_wf (d : Nat) : Memory.wf (powerOnBuffer d) := by
  unfold powerOnBuffer
  exact bufScramble_wf [] Memory.nil_wf d 0 _

/-! ## The canonical form -/

theorem Memory.read_of_mem (m : Memory) (h : Memory.wf m) (c : Host.Cell) (hc : c ∈ m) : Memory.read m c.1 = c.2 := by
  obtain ⟨hp, -⟩ := h
  induction m with
  | nil => simp at hc
  | cons d m ih =>
    have ⟨h1, h2⟩ := List.pairwise_cons.1 hp
    simp only [Memory.read]
    rcases List.mem_cons.1 hc with rfl | hc
    · simp
    · have := h1 c hc
      rw [if_neg (by omega)]
      exact ih hc h2

theorem Memory.mem_iff_read (m : Memory) (h : Memory.wf m) (c : Host.Cell) :
    c ∈ m ↔ Memory.read m c.1 = c.2 ∧ c.2 ≠ Config.unwrittenByte := by
  refine ⟨fun hc => ⟨Memory.read_of_mem m h c hc, (h.2 c hc).2⟩, ?_⟩
  rintro ⟨hr, hu⟩
  clear h
  induction m with
  | nil => exact absurd hr.symm hu
  | cons d m ih =>
    obtain ⟨k, y⟩ := d
    simp only [Memory.read] at hr
    split at hr
    · rename_i hk
      refine List.mem_cons.2 (.inl ?_)
      ext1 <;> simp [hk, hr]
    · exact List.mem_cons_of_mem _ (ih hr)

/-- Two buffers in canonical form that read the same everywhere are the same list. -/
theorem Memory.ext_read (m m' : Memory) (h : Memory.wf m) (h' : Memory.wf m')
    (hr : ∀ x, Memory.read m x = Memory.read m' x) : m = m' := by
  have hmem : ∀ c, c ∈ m ↔ c ∈ m' := fun c => by rw [Memory.mem_iff_read m h, Memory.mem_iff_read m' h', hr]
  have hnd : ∀ l : Memory, l.Pairwise (fun c d => c.1 < d.1) → l.Nodup := fun l hl =>
    hl.imp fun {a b} hab => fun he => by rw [he] at hab; exact Nat.lt_irrefl _ hab
  exact ((List.perm_ext_iff_of_nodup (hnd m h.1) (hnd m' h'.1)).2 hmem).eq_of_pairwise
    (le := fun c d => c.1 < d.1) (fun a b _ _ hab hba => absurd hab (Nat.lt_asymm hba)) h.1 h'.1

end Sys2Proof.Machine
end

