-- ==== Sys2Proof/Laws/Cipher.lean ====
section
/-! SUPPORT. The laws of the cipher engine: lengths, one round undone, and the blocks of a byte sequence. -/

namespace Sys2Proof.Machine

/-! ## Lengths -/

@[simp] theorem schedFrom_length (n : Nat) (x : Word32) : (schedFrom n x).length = n := by
  induction n generalizing x with
  | zero => rfl
  | succ n ih => simp [schedFrom, ih]

@[simp] theorem mixStep_S_length (t c : Nat) (m : MixState) : (mixStep t c m).S.length = m.S.length := by simp [mixStep]

@[simp] theorem mixStep_L_length (t c : Nat) (m : MixState) : (mixStep t c m).L.length = m.L.length := by simp [mixStep]

@[simp] theorem mixSteps_S_length (t c n : Nat) (m : MixState) : (mixSteps t c n m).S.length = m.S.length := by
  induction n generalizing m with
  | zero => rfl
  | succ n ih => simp [mixSteps, ih]

/-- A schedule has 2*(r+1) words (00_scope.md R12). -/
@[simp] theorem expandKey_length (key : List Byte) (r : Nat) : (expandKey key r).length = schedWords r := by
  simp [expandKey, schedInit]

@[simp] theorem cbcPad_length (l : Nat) : (cbcPad l).length = 8 - l % 8 := by simp [cbcPad]

/-- The encryption input has floor(L/8) + 2 blocks (41_cipher.md R171). -/
theorem cbcInput_length (iv : Word64) (pt : List Byte) : (cbcInput iv pt).length = 8 * (pt.length / 8 + 2) := by
  simp only [cbcInput, List.length_append, bytes64_length, cbcPad_length]
  omega

@[simp] theorem naturalBytes_length (p : WordPair) : (naturalBytes p).length = 8 := by simp [naturalBytes]

@[simp] theorem swappedBytes_length (p : WordPair) : (swappedBytes p).length = 8 := by simp [swappedBytes]

theorem flatMap_length_const {α : Type} (f : α → List Byte) (n : Nat) (h : ∀ a, (f a).length = n) (l : List α) :
    (l.flatMap f).length = n * l.length := by
  induction l with
  | nil => simp
  | cons a l ih =>
    simp only [List.flatMap_cons, List.length_append, List.length_cons, h, ih]
    ring

@[simp] theorem encChainBlocks_length (S : List Word32) (r : Nat) (c : WordPair) (ps : List WordPair) :
    (encChainBlocks S r c ps).length = ps.length := by
  induction ps generalizing c with
  | nil => rfl
  | cons p ps ih => simp [encChainBlocks, ih]

@[simp] theorem decChainBlocks_length (S : List Word32) (r : Nat) (c : WordPair) (ps : List WordPair) :
    (decChainBlocks S r c ps).length = ps.length := by
  induction ps generalizing c with
  | nil => rfl
  | cons p ps ih => simp [decChainBlocks, ih]

/-- The output length of the chained encryption (41_cipher.md R173). -/
@[simp] theorem encChain_length (S : List Word32) (r : Nat) (iv : Word64) (pt : List Byte) :
    (encChain S r iv pt).length = encCbcLen pt.length := by
  simp only [encChain]
  rw [flatMap_length_const _ 8 naturalBytes_length]
  simp only [encChainBlocks_length, List.length_map, List.length_range, encCbcLen]
  omega

/-- The output length of the chained decryption of whole blocks (41_cipher.md R174). -/
theorem decChain_length (S : List Word32) (r : Nat) (ct : List Byte) (h : ct.length % 8 = 0) :
    (decChain S r ct).length = decCbcLen ct.length := by
  simp only [decChain]
  rw [flatMap_length_const _ 8 swappedBytes_length]
  simp only [List.length_tail, decChainBlocks_length, List.length_map, List.length_range, decCbcLen]
  omega

/-! ## Rounds -/

@[simp] theorem pairXor_cancel (p q : WordPair) : pairXor (pairXor p q) q = p := by
  simp [pairXor]

/-- One round of decryption undoes one round of encryption (41_cipher.md R166). -/
@[simp] theorem decRound_encRound (S : List Word32) (p : WordPair) (i : Nat) : decRound S (encRound S p i) i = p := by
  simp [decRound, encRound]

/-- One round of encryption undoes one round of decryption. -/
@[simp] theorem encRound_decRound (S : List Word32) (p : WordPair) (i : Nat) : encRound S (decRound S p i) i = p := by
  simp [decRound, encRound]

/-! ## Blocks of bytes -/

/-- The bytes of a pair spell the pair, natural order (41_cipher.md R172, R174). -/
theorem naturalBlock_naturalBytes (p : WordPair) : naturalBlock (naturalBytes p) 0 = p := by
  simp [naturalBlock, naturalBytes, slice, List.take_of_length_le]

/-- The bytes of a pair spell the pair, words swapped (41_cipher.md R171, R175). -/
theorem swappedBlock_swappedBytes (p : WordPair) : swappedBlock (swappedBytes p) 0 = p := by
  simp [swappedBlock, swappedBytes, slice, List.take_of_length_le]

/-- Emitting a parsed block with its words swapped gives back its bytes (41_cipher.md R171, R175). -/
theorem swappedBytes_swappedBlock (input : List Byte) (k : Nat) (h : 8 * k + 8 ≤ input.length) :
    swappedBytes (swappedBlock input k) = slice input (8 * k) 8 := by
  simp only [swappedBytes, swappedBlock]
  rw [bytes32_le32 _ (by simp; omega), bytes32_le32 _ (by simp; omega)]
  simp only [slice]
  rw [show (8 : Nat) = 4 + 4 by rfl, List.take_add, List.drop_drop]

end Sys2Proof.Machine
end

