-- ==== Sys2Proof/Laws/Decode.lean ====
section
/-! SUPPORT. The laws of the decoder. -/

namespace Sys2Proof

/-- The opcode map is the opcodes' inverse. -/
theorem instrOfOpcode_eq_some : ∀ (op : Byte) (i : Instr), instrOfOpcode op = some i ↔ i.opcode = op := by
  have h : ∀ n, n < 256 → ∀ i : Instr, instrOfOpcode (BitVec.ofNat 8 n) = some i ↔ i.opcode = BitVec.ofNat 8 n := by
    intro n hn i
    cases i <;> revert n <;> decide +kernel
  intro op i
  have := h op.toNat op.isLt i
  simpa using this

/-- A word is its opcode field and its reserved field. -/
theorem word_eq_fields (v : Word64) : v = reservedField v ++ opcodeField v := by
  refine BitVec.eq_of_getLsbD_eq fun i hi => ?_
  simp only [reservedField, opcodeField, BitVec.getLsbD_append, BitVec.getLsbD_extractLsb']
  by_cases h : i < 8
  · simp [h]
  · have h1 : i - 8 < 56 := by omega
    have h2 : 8 + (i - 8) = i := by omega
    simp [h, h1, h2]

@[simp] theorem opcodeField_encode (i : Instr) : opcodeField (encode i) = i.opcode := by cases i <;> rfl

@[simp] theorem reservedField_encode (i : Instr) : reservedField (encode i) = 0#56 := by cases i <;> rfl

/-- What the decoder answers on a word: the first error that applies, or the command whose opcode the word holds. -/
theorem decode_cases (v : Word64) :
    (decode v = .error .undefinedOpcode ∧ instrOfOpcode (opcodeField v) = none) ∨
    (∃ i : Instr, decode v = .error .reservedBits ∧ i.opcode = opcodeField v ∧ reservedField v ≠ 0#56) ∨
    (∃ i, decode v = .ok i ∧ i.opcode = opcodeField v ∧ reservedField v = 0#56) := by
  simp only [decode]
  cases h : instrOfOpcode (opcodeField v) with
  | none => simp
  | some i =>
    have hi := (instrOfOpcode_eq_some _ _).1 h
    by_cases hr : reservedField v = 0#56
    · exact .inr (.inr ⟨i, by simp [hr], hi, hr⟩)
    · exact .inr (.inl ⟨i, by simp [hr], hi, hr⟩)

end Sys2Proof
end

