-- ==== Sys2Proof/Laws/State.lean ====
section
/-! SUPPORT. What each named update of State leaves in each field: one lemma per field per update, all true by rfl. -/

namespace Sys2Proof.Machine

/-! ## State.accept -/

@[simp] theorem State.accept_ie (s : State) (v : Word64) : (s.accept v).ie = s.ie := rfl
@[simp] theorem State.accept_phase (s : State) (v : Word64) : (s.accept v).phase = .busy := rfl
@[simp] theorem State.accept_done (s : State) (v : Word64) : (s.accept v).done = false := rfl
@[simp] theorem State.accept_haz (s : State) (v : Word64) : (s.accept v).haz = s.haz := rfl
@[simp] theorem State.accept_cmd (s : State) (v : Word64) : (s.accept v).cmd = v := rfl
@[simp] theorem State.accept_errCode (s : State) (v : Word64) : (s.accept v).errCode = 0#8 := rfl
@[simp] theorem State.accept_errCause (s : State) (v : Word64) : (s.accept v).errCause = 0#8 := rfl
@[simp] theorem State.accept_errInfo (s : State) (v : Word64) : (s.accept v).errInfo = 0#64 := rfl
@[simp] theorem State.accept_srcAddr (s : State) (v : Word64) : (s.accept v).srcAddr = s.srcAddr := rfl
@[simp] theorem State.accept_srcLen (s : State) (v : Word64) : (s.accept v).srcLen = s.srcLen := rfl
@[simp] theorem State.accept_dstAddr (s : State) (v : Word64) : (s.accept v).dstAddr = s.dstAddr := rfl
@[simp] theorem State.accept_keyAddr (s : State) (v : Word64) : (s.accept v).keyAddr = s.keyAddr := rfl
@[simp] theorem State.accept_cipherCfg (s : State) (v : Word64) : (s.accept v).cipherCfg = s.cipherCfg := rfl
@[simp] theorem State.accept_iv (s : State) (v : Word64) : (s.accept v).iv = s.iv := rfl
@[simp] theorem State.accept_blkA (s : State) (v : Word64) : (s.accept v).blkA = s.blkA := rfl
@[simp] theorem State.accept_blkB (s : State) (v : Word64) : (s.accept v).blkB = s.blkB := rfl
@[simp] theorem State.accept_prgA (s : State) (v : Word64) : (s.accept v).prgA = s.prgA := rfl
@[simp] theorem State.accept_prgC (s : State) (v : Word64) : (s.accept v).prgC = s.prgC := rfl
@[simp] theorem State.accept_prgM (s : State) (v : Word64) : (s.accept v).prgM = s.prgM := rfl
@[simp] theorem State.accept_prgSeed (s : State) (v : Word64) : (s.accept v).prgSeed = s.prgSeed := rfl
@[simp] theorem State.accept_prgN (s : State) (v : Word64) : (s.accept v).prgN = s.prgN := rfl
@[simp] theorem State.accept_lcgA (s : State) (v : Word64) : (s.accept v).lcgA = s.lcgA := rfl
@[simp] theorem State.accept_lcgC (s : State) (v : Word64) : (s.accept v).lcgC = s.lcgC := rfl
@[simp] theorem State.accept_lcgM (s : State) (v : Word64) : (s.accept v).lcgM = s.lcgM := rfl
@[simp] theorem State.accept_lcgS (s : State) (v : Word64) : (s.accept v).lcgS = s.lcgS := rfl
@[simp] theorem State.accept_result (s : State) (v : Word64) : (s.accept v).result = s.result := rfl
@[simp] theorem State.accept_outLen (s : State) (v : Word64) : (s.accept v).outLen = s.outLen := rfl
@[simp] theorem State.accept_digestLo (s : State) (v : Word64) : (s.accept v).digestLo = s.digestLo := rfl
@[simp] theorem State.accept_digestHi (s : State) (v : Word64) : (s.accept v).digestHi = s.digestHi := rfl
@[simp] theorem State.accept_buf (s : State) (v : Word64) : (s.accept v).buf = s.buf := rfl
@[simp] theorem State.accept_turns (s : State) (v : Word64) : (s.accept v).turns = s.turns := rfl
@[simp] theorem State.accept_resp (s : State) (v : Word64) : (s.accept v).resp = s.resp := rfl
@[simp] theorem State.accept_draws (s : State) (v : Word64) : (s.accept v).draws = s.draws := rfl

/-! ## State.report -/

@[simp] theorem State.report_ie (s : State) (e : Raise) : (s.report e).ie = s.ie := rfl
@[simp] theorem State.report_phase (s : State) (e : Raise) : (s.report e).phase = s.phase := rfl
@[simp] theorem State.report_done (s : State) (e : Raise) : (s.report e).done = s.done := rfl
@[simp] theorem State.report_haz (s : State) (e : Raise) : (s.report e).haz = s.haz := rfl
@[simp] theorem State.report_cmd (s : State) (e : Raise) : (s.report e).cmd = s.cmd := rfl
@[simp] theorem State.report_errCode (s : State) (e : Raise) : (s.report e).errCode = causeCode e.cause := rfl
@[simp] theorem State.report_errCause (s : State) (e : Raise) : (s.report e).errCause = causeNumber e.cause := rfl
@[simp] theorem State.report_errInfo (s : State) (e : Raise) : (s.report e).errInfo = e.info := rfl
@[simp] theorem State.report_srcAddr (s : State) (e : Raise) : (s.report e).srcAddr = s.srcAddr := rfl
@[simp] theorem State.report_srcLen (s : State) (e : Raise) : (s.report e).srcLen = s.srcLen := rfl
@[simp] theorem State.report_dstAddr (s : State) (e : Raise) : (s.report e).dstAddr = s.dstAddr := rfl
@[simp] theorem State.report_keyAddr (s : State) (e : Raise) : (s.report e).keyAddr = s.keyAddr := rfl
@[simp] theorem State.report_cipherCfg (s : State) (e : Raise) : (s.report e).cipherCfg = s.cipherCfg := rfl
@[simp] theorem State.report_iv (s : State) (e : Raise) : (s.report e).iv = s.iv := rfl
@[simp] theorem State.report_blkA (s : State) (e : Raise) : (s.report e).blkA = s.blkA := rfl
@[simp] theorem State.report_blkB (s : State) (e : Raise) : (s.report e).blkB = s.blkB := rfl
@[simp] theorem State.report_prgA (s : State) (e : Raise) : (s.report e).prgA = s.prgA := rfl
@[simp] theorem State.report_prgC (s : State) (e : Raise) : (s.report e).prgC = s.prgC := rfl
@[simp] theorem State.report_prgM (s : State) (e : Raise) : (s.report e).prgM = s.prgM := rfl
@[simp] theorem State.report_prgSeed (s : State) (e : Raise) : (s.report e).prgSeed = s.prgSeed := rfl
@[simp] theorem State.report_prgN (s : State) (e : Raise) : (s.report e).prgN = s.prgN := rfl
@[simp] theorem State.report_lcgA (s : State) (e : Raise) : (s.report e).lcgA = s.lcgA := rfl
@[simp] theorem State.report_lcgC (s : State) (e : Raise) : (s.report e).lcgC = s.lcgC := rfl
@[simp] theorem State.report_lcgM (s : State) (e : Raise) : (s.report e).lcgM = s.lcgM := rfl
@[simp] theorem State.report_lcgS (s : State) (e : Raise) : (s.report e).lcgS = s.lcgS := rfl
@[simp] theorem State.report_result (s : State) (e : Raise) : (s.report e).result = s.result := rfl
@[simp] theorem State.report_outLen (s : State) (e : Raise) : (s.report e).outLen = s.outLen := rfl
@[simp] theorem State.report_digestLo (s : State) (e : Raise) : (s.report e).digestLo = s.digestLo := rfl
@[simp] theorem State.report_digestHi (s : State) (e : Raise) : (s.report e).digestHi = s.digestHi := rfl
@[simp] theorem State.report_buf (s : State) (e : Raise) : (s.report e).buf = s.buf := rfl
@[simp] theorem State.report_turns (s : State) (e : Raise) : (s.report e).turns = s.turns := rfl
@[simp] theorem State.report_resp (s : State) (e : Raise) : (s.report e).resp = s.resp := rfl
@[simp] theorem State.report_draws (s : State) (e : Raise) : (s.report e).draws = s.draws := rfl

/-! ## State.finish -/

@[simp] theorem State.finish_ie (s : State) : s.finish.ie = s.ie := rfl
@[simp] theorem State.finish_phase (s : State) : s.finish.phase = .idle := rfl
@[simp] theorem State.finish_done (s : State) : s.finish.done = true := rfl
@[simp] theorem State.finish_haz (s : State) : s.finish.haz = s.haz := rfl
@[simp] theorem State.finish_cmd (s : State) : s.finish.cmd = s.cmd := rfl
@[simp] theorem State.finish_errCode (s : State) : s.finish.errCode = s.errCode := rfl
@[simp] theorem State.finish_errCause (s : State) : s.finish.errCause = s.errCause := rfl
@[simp] theorem State.finish_errInfo (s : State) : s.finish.errInfo = s.errInfo := rfl
@[simp] theorem State.finish_srcAddr (s : State) : s.finish.srcAddr = s.srcAddr := rfl
@[simp] theorem State.finish_srcLen (s : State) : s.finish.srcLen = s.srcLen := rfl
@[simp] theorem State.finish_dstAddr (s : State) : s.finish.dstAddr = s.dstAddr := rfl
@[simp] theorem State.finish_keyAddr (s : State) : s.finish.keyAddr = s.keyAddr := rfl
@[simp] theorem State.finish_cipherCfg (s : State) : s.finish.cipherCfg = s.cipherCfg := rfl
@[simp] theorem State.finish_iv (s : State) : s.finish.iv = s.iv := rfl
@[simp] theorem State.finish_blkA (s : State) : s.finish.blkA = s.blkA := rfl
@[simp] theorem State.finish_blkB (s : State) : s.finish.blkB = s.blkB := rfl
@[simp] theorem State.finish_prgA (s : State) : s.finish.prgA = s.prgA := rfl
@[simp] theorem State.finish_prgC (s : State) : s.finish.prgC = s.prgC := rfl
@[simp] theorem State.finish_prgM (s : State) : s.finish.prgM = s.prgM := rfl
@[simp] theorem State.finish_prgSeed (s : State) : s.finish.prgSeed = s.prgSeed := rfl
@[simp] theorem State.finish_prgN (s : State) : s.finish.prgN = s.prgN := rfl
@[simp] theorem State.finish_lcgA (s : State) : s.finish.lcgA = s.lcgA := rfl
@[simp] theorem State.finish_lcgC (s : State) : s.finish.lcgC = s.lcgC := rfl
@[simp] theorem State.finish_lcgM (s : State) : s.finish.lcgM = s.lcgM := rfl
@[simp] theorem State.finish_lcgS (s : State) : s.finish.lcgS = s.lcgS := rfl
@[simp] theorem State.finish_result (s : State) : s.finish.result = s.result := rfl
@[simp] theorem State.finish_outLen (s : State) : s.finish.outLen = s.outLen := rfl
@[simp] theorem State.finish_digestLo (s : State) : s.finish.digestLo = s.digestLo := rfl
@[simp] theorem State.finish_digestHi (s : State) : s.finish.digestHi = s.digestHi := rfl
@[simp] theorem State.finish_buf (s : State) : s.finish.buf = s.buf := rfl
@[simp] theorem State.finish_turns (s : State) : s.finish.turns = s.turns := rfl
@[simp] theorem State.finish_resp (s : State) : s.finish.resp = s.resp := rfl
@[simp] theorem State.finish_draws (s : State) : s.finish.draws = s.draws := rfl

/-! ## State.acknowledge -/

@[simp] theorem State.acknowledge_ie (s : State) : s.acknowledge.ie = s.ie := rfl
@[simp] theorem State.acknowledge_phase (s : State) : s.acknowledge.phase = s.phase := rfl
@[simp] theorem State.acknowledge_done (s : State) : s.acknowledge.done = false := rfl
@[simp] theorem State.acknowledge_haz (s : State) : s.acknowledge.haz = s.haz := rfl
@[simp] theorem State.acknowledge_cmd (s : State) : s.acknowledge.cmd = s.cmd := rfl
@[simp] theorem State.acknowledge_errCode (s : State) : s.acknowledge.errCode = s.errCode := rfl
@[simp] theorem State.acknowledge_errCause (s : State) : s.acknowledge.errCause = s.errCause := rfl
@[simp] theorem State.acknowledge_errInfo (s : State) : s.acknowledge.errInfo = s.errInfo := rfl
@[simp] theorem State.acknowledge_srcAddr (s : State) : s.acknowledge.srcAddr = s.srcAddr := rfl
@[simp] theorem State.acknowledge_srcLen (s : State) : s.acknowledge.srcLen = s.srcLen := rfl
@[simp] theorem State.acknowledge_dstAddr (s : State) : s.acknowledge.dstAddr = s.dstAddr := rfl
@[simp] theorem State.acknowledge_keyAddr (s : State) : s.acknowledge.keyAddr = s.keyAddr := rfl
@[simp] theorem State.acknowledge_cipherCfg (s : State) : s.acknowledge.cipherCfg = s.cipherCfg := rfl
@[simp] theorem State.acknowledge_iv (s : State) : s.acknowledge.iv = s.iv := rfl
@[simp] theorem State.acknowledge_blkA (s : State) : s.acknowledge.blkA = s.blkA := rfl
@[simp] theorem State.acknowledge_blkB (s : State) : s.acknowledge.blkB = s.blkB := rfl
@[simp] theorem State.acknowledge_prgA (s : State) : s.acknowledge.prgA = s.prgA := rfl
@[simp] theorem State.acknowledge_prgC (s : State) : s.acknowledge.prgC = s.prgC := rfl
@[simp] theorem State.acknowledge_prgM (s : State) : s.acknowledge.prgM = s.prgM := rfl
@[simp] theorem State.acknowledge_prgSeed (s : State) : s.acknowledge.prgSeed = s.prgSeed := rfl
@[simp] theorem State.acknowledge_prgN (s : State) : s.acknowledge.prgN = s.prgN := rfl
@[simp] theorem State.acknowledge_lcgA (s : State) : s.acknowledge.lcgA = s.lcgA := rfl
@[simp] theorem State.acknowledge_lcgC (s : State) : s.acknowledge.lcgC = s.lcgC := rfl
@[simp] theorem State.acknowledge_lcgM (s : State) : s.acknowledge.lcgM = s.lcgM := rfl
@[simp] theorem State.acknowledge_lcgS (s : State) : s.acknowledge.lcgS = s.lcgS := rfl
@[simp] theorem State.acknowledge_result (s : State) : s.acknowledge.result = s.result := rfl
@[simp] theorem State.acknowledge_outLen (s : State) : s.acknowledge.outLen = s.outLen := rfl
@[simp] theorem State.acknowledge_digestLo (s : State) : s.acknowledge.digestLo = s.digestLo := rfl
@[simp] theorem State.acknowledge_digestHi (s : State) : s.acknowledge.digestHi = s.digestHi := rfl
@[simp] theorem State.acknowledge_buf (s : State) : s.acknowledge.buf = s.buf := rfl
@[simp] theorem State.acknowledge_turns (s : State) : s.acknowledge.turns = s.turns := rfl
@[simp] theorem State.acknowledge_resp (s : State) : s.acknowledge.resp = s.resp := rfl
@[simp] theorem State.acknowledge_draws (s : State) : s.acknowledge.draws = s.draws := rfl

/-! ## State.hazard -/

@[simp] theorem State.hazard_ie (s : State) : s.hazard.ie = s.ie := rfl
@[simp] theorem State.hazard_phase (s : State) : s.hazard.phase = s.phase := rfl
@[simp] theorem State.hazard_done (s : State) : s.hazard.done = s.done := rfl
@[simp] theorem State.hazard_haz (s : State) : s.hazard.haz = true := rfl
@[simp] theorem State.hazard_cmd (s : State) : s.hazard.cmd = s.cmd := rfl
@[simp] theorem State.hazard_errCode (s : State) : s.hazard.errCode = s.errCode := rfl
@[simp] theorem State.hazard_errCause (s : State) : s.hazard.errCause = s.errCause := rfl
@[simp] theorem State.hazard_errInfo (s : State) : s.hazard.errInfo = s.errInfo := rfl
@[simp] theorem State.hazard_srcAddr (s : State) : s.hazard.srcAddr = s.srcAddr := rfl
@[simp] theorem State.hazard_srcLen (s : State) : s.hazard.srcLen = s.srcLen := rfl
@[simp] theorem State.hazard_dstAddr (s : State) : s.hazard.dstAddr = s.dstAddr := rfl
@[simp] theorem State.hazard_keyAddr (s : State) : s.hazard.keyAddr = s.keyAddr := rfl
@[simp] theorem State.hazard_cipherCfg (s : State) : s.hazard.cipherCfg = s.cipherCfg := rfl
@[simp] theorem State.hazard_iv (s : State) : s.hazard.iv = s.iv := rfl
@[simp] theorem State.hazard_blkA (s : State) : s.hazard.blkA = s.blkA := rfl
@[simp] theorem State.hazard_blkB (s : State) : s.hazard.blkB = s.blkB := rfl
@[simp] theorem State.hazard_prgA (s : State) : s.hazard.prgA = s.prgA := rfl
@[simp] theorem State.hazard_prgC (s : State) : s.hazard.prgC = s.prgC := rfl
@[simp] theorem State.hazard_prgM (s : State) : s.hazard.prgM = s.prgM := rfl
@[simp] theorem State.hazard_prgSeed (s : State) : s.hazard.prgSeed = s.prgSeed := rfl
@[simp] theorem State.hazard_prgN (s : State) : s.hazard.prgN = s.prgN := rfl
@[simp] theorem State.hazard_lcgA (s : State) : s.hazard.lcgA = s.lcgA := rfl
@[simp] theorem State.hazard_lcgC (s : State) : s.hazard.lcgC = s.lcgC := rfl
@[simp] theorem State.hazard_lcgM (s : State) : s.hazard.lcgM = s.lcgM := rfl
@[simp] theorem State.hazard_lcgS (s : State) : s.hazard.lcgS = s.lcgS := rfl
@[simp] theorem State.hazard_result (s : State) : s.hazard.result = s.result := rfl
@[simp] theorem State.hazard_outLen (s : State) : s.hazard.outLen = s.outLen := rfl
@[simp] theorem State.hazard_digestLo (s : State) : s.hazard.digestLo = s.digestLo := rfl
@[simp] theorem State.hazard_digestHi (s : State) : s.hazard.digestHi = s.digestHi := rfl
@[simp] theorem State.hazard_buf (s : State) : s.hazard.buf = s.buf := rfl
@[simp] theorem State.hazard_turns (s : State) : s.hazard.turns = s.turns := rfl
@[simp] theorem State.hazard_resp (s : State) : s.hazard.resp = s.resp := rfl
@[simp] theorem State.hazard_draws (s : State) : s.hazard.draws = s.draws := rfl

/-! ## State.respond -/

@[simp] theorem State.respond_ie (s : State) (r : Response) : (s.respond r).ie = s.ie := rfl
@[simp] theorem State.respond_phase (s : State) (r : Response) : (s.respond r).phase = s.phase := rfl
@[simp] theorem State.respond_done (s : State) (r : Response) : (s.respond r).done = s.done := rfl
@[simp] theorem State.respond_haz (s : State) (r : Response) : (s.respond r).haz = s.haz := rfl
@[simp] theorem State.respond_cmd (s : State) (r : Response) : (s.respond r).cmd = s.cmd := rfl
@[simp] theorem State.respond_errCode (s : State) (r : Response) : (s.respond r).errCode = s.errCode := rfl
@[simp] theorem State.respond_errCause (s : State) (r : Response) : (s.respond r).errCause = s.errCause := rfl
@[simp] theorem State.respond_errInfo (s : State) (r : Response) : (s.respond r).errInfo = s.errInfo := rfl
@[simp] theorem State.respond_srcAddr (s : State) (r : Response) : (s.respond r).srcAddr = s.srcAddr := rfl
@[simp] theorem State.respond_srcLen (s : State) (r : Response) : (s.respond r).srcLen = s.srcLen := rfl
@[simp] theorem State.respond_dstAddr (s : State) (r : Response) : (s.respond r).dstAddr = s.dstAddr := rfl
@[simp] theorem State.respond_keyAddr (s : State) (r : Response) : (s.respond r).keyAddr = s.keyAddr := rfl
@[simp] theorem State.respond_cipherCfg (s : State) (r : Response) : (s.respond r).cipherCfg = s.cipherCfg := rfl
@[simp] theorem State.respond_iv (s : State) (r : Response) : (s.respond r).iv = s.iv := rfl
@[simp] theorem State.respond_blkA (s : State) (r : Response) : (s.respond r).blkA = s.blkA := rfl
@[simp] theorem State.respond_blkB (s : State) (r : Response) : (s.respond r).blkB = s.blkB := rfl
@[simp] theorem State.respond_prgA (s : State) (r : Response) : (s.respond r).prgA = s.prgA := rfl
@[simp] theorem State.respond_prgC (s : State) (r : Response) : (s.respond r).prgC = s.prgC := rfl
@[simp] theorem State.respond_prgM (s : State) (r : Response) : (s.respond r).prgM = s.prgM := rfl
@[simp] theorem State.respond_prgSeed (s : State) (r : Response) : (s.respond r).prgSeed = s.prgSeed := rfl
@[simp] theorem State.respond_prgN (s : State) (r : Response) : (s.respond r).prgN = s.prgN := rfl
@[simp] theorem State.respond_lcgA (s : State) (r : Response) : (s.respond r).lcgA = s.lcgA := rfl
@[simp] theorem State.respond_lcgC (s : State) (r : Response) : (s.respond r).lcgC = s.lcgC := rfl
@[simp] theorem State.respond_lcgM (s : State) (r : Response) : (s.respond r).lcgM = s.lcgM := rfl
@[simp] theorem State.respond_lcgS (s : State) (r : Response) : (s.respond r).lcgS = s.lcgS := rfl
@[simp] theorem State.respond_result (s : State) (r : Response) : (s.respond r).result = s.result := rfl
@[simp] theorem State.respond_outLen (s : State) (r : Response) : (s.respond r).outLen = s.outLen := rfl
@[simp] theorem State.respond_digestLo (s : State) (r : Response) : (s.respond r).digestLo = s.digestLo := rfl
@[simp] theorem State.respond_digestHi (s : State) (r : Response) : (s.respond r).digestHi = s.digestHi := rfl
@[simp] theorem State.respond_buf (s : State) (r : Response) : (s.respond r).buf = s.buf := rfl
@[simp] theorem State.respond_turns (s : State) (r : Response) : (s.respond r).turns = s.turns := rfl
@[simp] theorem State.respond_resp (s : State) (r : Response) : (s.respond r).resp = r := rfl
@[simp] theorem State.respond_draws (s : State) (r : Response) : (s.respond r).draws = s.draws := rfl

/-! ## State.writeIe -/

@[simp] theorem State.writeIe_ie (s : State) (v : Word64) : (s.writeIe v).ie = v.getLsbD 0 := rfl
@[simp] theorem State.writeIe_phase (s : State) (v : Word64) : (s.writeIe v).phase = s.phase := rfl
@[simp] theorem State.writeIe_done (s : State) (v : Word64) : (s.writeIe v).done = s.done := rfl
@[simp] theorem State.writeIe_haz (s : State) (v : Word64) : (s.writeIe v).haz = s.haz := rfl
@[simp] theorem State.writeIe_cmd (s : State) (v : Word64) : (s.writeIe v).cmd = s.cmd := rfl
@[simp] theorem State.writeIe_errCode (s : State) (v : Word64) : (s.writeIe v).errCode = s.errCode := rfl
@[simp] theorem State.writeIe_errCause (s : State) (v : Word64) : (s.writeIe v).errCause = s.errCause := rfl
@[simp] theorem State.writeIe_errInfo (s : State) (v : Word64) : (s.writeIe v).errInfo = s.errInfo := rfl
@[simp] theorem State.writeIe_srcAddr (s : State) (v : Word64) : (s.writeIe v).srcAddr = s.srcAddr := rfl
@[simp] theorem State.writeIe_srcLen (s : State) (v : Word64) : (s.writeIe v).srcLen = s.srcLen := rfl
@[simp] theorem State.writeIe_dstAddr (s : State) (v : Word64) : (s.writeIe v).dstAddr = s.dstAddr := rfl
@[simp] theorem State.writeIe_keyAddr (s : State) (v : Word64) : (s.writeIe v).keyAddr = s.keyAddr := rfl
@[simp] theorem State.writeIe_cipherCfg (s : State) (v : Word64) : (s.writeIe v).cipherCfg = s.cipherCfg := rfl
@[simp] theorem State.writeIe_iv (s : State) (v : Word64) : (s.writeIe v).iv = s.iv := rfl
@[simp] theorem State.writeIe_blkA (s : State) (v : Word64) : (s.writeIe v).blkA = s.blkA := rfl
@[simp] theorem State.writeIe_blkB (s : State) (v : Word64) : (s.writeIe v).blkB = s.blkB := rfl
@[simp] theorem State.writeIe_prgA (s : State) (v : Word64) : (s.writeIe v).prgA = s.prgA := rfl
@[simp] theorem State.writeIe_prgC (s : State) (v : Word64) : (s.writeIe v).prgC = s.prgC := rfl
@[simp] theorem State.writeIe_prgM (s : State) (v : Word64) : (s.writeIe v).prgM = s.prgM := rfl
@[simp] theorem State.writeIe_prgSeed (s : State) (v : Word64) : (s.writeIe v).prgSeed = s.prgSeed := rfl
@[simp] theorem State.writeIe_prgN (s : State) (v : Word64) : (s.writeIe v).prgN = s.prgN := rfl
@[simp] theorem State.writeIe_lcgA (s : State) (v : Word64) : (s.writeIe v).lcgA = s.lcgA := rfl
@[simp] theorem State.writeIe_lcgC (s : State) (v : Word64) : (s.writeIe v).lcgC = s.lcgC := rfl
@[simp] theorem State.writeIe_lcgM (s : State) (v : Word64) : (s.writeIe v).lcgM = s.lcgM := rfl
@[simp] theorem State.writeIe_lcgS (s : State) (v : Word64) : (s.writeIe v).lcgS = s.lcgS := rfl
@[simp] theorem State.writeIe_result (s : State) (v : Word64) : (s.writeIe v).result = s.result := rfl
@[simp] theorem State.writeIe_outLen (s : State) (v : Word64) : (s.writeIe v).outLen = s.outLen := rfl
@[simp] theorem State.writeIe_digestLo (s : State) (v : Word64) : (s.writeIe v).digestLo = s.digestLo := rfl
@[simp] theorem State.writeIe_digestHi (s : State) (v : Word64) : (s.writeIe v).digestHi = s.digestHi := rfl
@[simp] theorem State.writeIe_buf (s : State) (v : Word64) : (s.writeIe v).buf = s.buf := rfl
@[simp] theorem State.writeIe_turns (s : State) (v : Word64) : (s.writeIe v).turns = s.turns := rfl
@[simp] theorem State.writeIe_resp (s : State) (v : Word64) : (s.writeIe v).resp = s.resp := rfl
@[simp] theorem State.writeIe_draws (s : State) (v : Word64) : (s.writeIe v).draws = s.draws := rfl

/-! ## State.popTurn -/

@[simp] theorem State.popTurn_ie (s : State) : s.popTurn.ie = s.ie := rfl
@[simp] theorem State.popTurn_phase (s : State) : s.popTurn.phase = s.phase := rfl
@[simp] theorem State.popTurn_done (s : State) : s.popTurn.done = s.done := rfl
@[simp] theorem State.popTurn_haz (s : State) : s.popTurn.haz = s.haz := rfl
@[simp] theorem State.popTurn_cmd (s : State) : s.popTurn.cmd = s.cmd := rfl
@[simp] theorem State.popTurn_errCode (s : State) : s.popTurn.errCode = s.errCode := rfl
@[simp] theorem State.popTurn_errCause (s : State) : s.popTurn.errCause = s.errCause := rfl
@[simp] theorem State.popTurn_errInfo (s : State) : s.popTurn.errInfo = s.errInfo := rfl
@[simp] theorem State.popTurn_srcAddr (s : State) : s.popTurn.srcAddr = s.srcAddr := rfl
@[simp] theorem State.popTurn_srcLen (s : State) : s.popTurn.srcLen = s.srcLen := rfl
@[simp] theorem State.popTurn_dstAddr (s : State) : s.popTurn.dstAddr = s.dstAddr := rfl
@[simp] theorem State.popTurn_keyAddr (s : State) : s.popTurn.keyAddr = s.keyAddr := rfl
@[simp] theorem State.popTurn_cipherCfg (s : State) : s.popTurn.cipherCfg = s.cipherCfg := rfl
@[simp] theorem State.popTurn_iv (s : State) : s.popTurn.iv = s.iv := rfl
@[simp] theorem State.popTurn_blkA (s : State) : s.popTurn.blkA = s.blkA := rfl
@[simp] theorem State.popTurn_blkB (s : State) : s.popTurn.blkB = s.blkB := rfl
@[simp] theorem State.popTurn_prgA (s : State) : s.popTurn.prgA = s.prgA := rfl
@[simp] theorem State.popTurn_prgC (s : State) : s.popTurn.prgC = s.prgC := rfl
@[simp] theorem State.popTurn_prgM (s : State) : s.popTurn.prgM = s.prgM := rfl
@[simp] theorem State.popTurn_prgSeed (s : State) : s.popTurn.prgSeed = s.prgSeed := rfl
@[simp] theorem State.popTurn_prgN (s : State) : s.popTurn.prgN = s.prgN := rfl
@[simp] theorem State.popTurn_lcgA (s : State) : s.popTurn.lcgA = s.lcgA := rfl
@[simp] theorem State.popTurn_lcgC (s : State) : s.popTurn.lcgC = s.lcgC := rfl
@[simp] theorem State.popTurn_lcgM (s : State) : s.popTurn.lcgM = s.lcgM := rfl
@[simp] theorem State.popTurn_lcgS (s : State) : s.popTurn.lcgS = s.lcgS := rfl
@[simp] theorem State.popTurn_result (s : State) : s.popTurn.result = s.result := rfl
@[simp] theorem State.popTurn_outLen (s : State) : s.popTurn.outLen = s.outLen := rfl
@[simp] theorem State.popTurn_digestLo (s : State) : s.popTurn.digestLo = s.digestLo := rfl
@[simp] theorem State.popTurn_digestHi (s : State) : s.popTurn.digestHi = s.digestHi := rfl
@[simp] theorem State.popTurn_buf (s : State) : s.popTurn.buf = s.buf := rfl
@[simp] theorem State.popTurn_turns (s : State) : s.popTurn.turns = s.turns.tail := rfl
@[simp] theorem State.popTurn_resp (s : State) : s.popTurn.resp = s.resp := rfl
@[simp] theorem State.popTurn_draws (s : State) : s.popTurn.draws = s.draws := rfl

end Sys2Proof.Machine
end

