-- ==== Sys2Proof/Laws/Commands.lean ====
section
/-! SUPPORT. What executing a command can do, said once: the tests, the two completions, the effect of each command. -/

namespace Sys2Proof.Machine

/-! ## The tests -/

@[simp] theorem firstError_nil : firstError [] = none := rfl

@[simp] theorem firstError_cons (c : Check) (cs : List Check) :
    firstError (c :: cs) = if c.fails then some c.error else firstError cs := rfl

/-- No error is reported exactly when every test passes. -/
theorem firstError_eq_none (cs : List Check) : firstError cs = none ↔ ∀ c ∈ cs, c.fails = false := by
  induction cs with
  | nil => simp
  | cons c cs ih => cases h : c.fails <;> simp [h, ih]

/-- The error reported is that of a test that fails, and every test before it passes. -/
theorem firstError_eq_some (cs : List Check) (e : Raise) :
    firstError cs = some e ↔ ∃ pre c post, cs = pre ++ c :: post ∧ c.fails = true ∧ c.error = e ∧
      ∀ d ∈ pre, d.fails = false := by
  induction cs with
  | nil => simp
  | cons c cs ih =>
    cases h : c.fails with
    | true =>
      simp only [firstError_cons, h, if_true, Option.some.injEq]
      constructor
      · rintro rfl
        exact ⟨[], c, cs, rfl, h, rfl, by simp⟩
      · rintro ⟨pre, d, post, heq, hd, he, hpre⟩
        cases pre with
        | nil => simp_all
        | cons p pre =>
          have := hpre p (by simp)
          simp_all
    | false =>
      simp only [firstError_cons, h]
      rw [if_neg (by simp), ih]
      constructor
      · rintro ⟨pre, d, post, rfl, hd, he, hpre⟩
        refine ⟨c :: pre, d, post, rfl, hd, he, fun x hx => ?_⟩
        rcases List.mem_cons.1 hx with rfl | hx
        · exact h
        · exact hpre x hx
      · rintro ⟨pre, d, post, heq, hd, he, hpre⟩
        cases pre with
        | nil => simp_all
        | cons p pre =>
          simp only [List.cons_append, List.cons.injEq] at heq
          exact ⟨pre, d, post, heq.2, hd, he, fun x hx => hpre x (by simp [hx])⟩

/-! ## Completion -/

/-- What a command does when no test fails. -/
def commandEffect (i : Instr) : State → State :=
  match i with
  | .nop => nopEffect
  | .digest => digestEffect
  | .keyexp => keyexpEffect
  | .encblk => encblkEffect
  | .decblk => decblkEffect
  | .enccbc => enccbcEffect
  | .deccbc => deccbcEffect
  | .prgload => prgloadEffect
  | .prggen => prggenEffect
  | .prggenn => prggennEffect
  | .prgperiod => prgperiodEffect

/-- Every command is its tests and its effect. -/
theorem exec_eq (i : Instr) (s : State) : exec i s = completeCommand (commandChecks i s) (commandEffect i) s := by
  cases i <;> rfl

/-- A completion always answers a next state: with the first error, or with the effect. -/
theorem completeCommand_cases (cs : List Check) (f : State → State) (s : State) :
    (∃ e, firstError cs = some e ∧ completeCommand cs f s = .next (errorCompletion e s)) ∨
    (firstError cs = none ∧ completeCommand cs f s = .next (f s).finish) := by
  simp only [completeCommand]
  cases firstError cs with
  | none => exact .inr ⟨rfl, rfl⟩
  | some e => exact .inl ⟨e, rfl, rfl⟩

/-- What a command's completion can be. -/
theorem exec_cases (i : Instr) (s : State) :
    (∃ e, firstError (commandChecks i s) = some e ∧ exec i s = .next (errorCompletion e s)) ∨
    (firstError (commandChecks i s) = none ∧ exec i s = .next (commandEffect i s).finish) := by
  rw [exec_eq]
  exact completeCommand_cases _ _ _

/-- The same, read from the state a command's completion answers. -/
theorem exec_next (i : Instr) (s t : State) (h : exec i s = .next t) :
    (∃ e, firstError (commandChecks i s) = some e ∧ t = errorCompletion e s) ∨
    (firstError (commandChecks i s) = none ∧ t = (commandEffect i s).finish) := by
  rcases exec_cases i s with ⟨e, he, hx⟩ | ⟨he, hx⟩
  · exact .inl ⟨e, he, by rw [hx] at h; exact (Host.Outcome.next.inj h).symm⟩
  · exact .inr ⟨he, by rw [hx] at h; exact (Host.Outcome.next.inj h).symm⟩

/-- An error completion reports an error of a defined code. -/
theorem causeCode_ne_zero (c : Cause) : causeCode c ≠ 0#8 := by cases c <;> decide

/-- MALFORMED_INPUT has the causes 1 to 9, ILLEGAL_COMMAND the causes 1 and 2. -/
theorem cause_coded (c : Cause) :
    (causeCode c = 1#8 ∧ 1 ≤ (causeNumber c).toNat ∧ (causeNumber c).toNat ≤ 9) ∨
    (causeCode c = 2#8 ∧ (causeNumber c = 1#8 ∨ causeNumber c = 2#8)) := by
  cases c <;> decide

/-- The tests of a decoded command raise MALFORMED_INPUT only. -/
theorem commandChecks_malformed (i : Instr) (s : State) (c : Check) (h : c ∈ commandChecks i s) :
    causeCode c.error.cause = 1#8 := by
  revert c
  cases i <;>
    simp [commandChecks, cipherChecks, srcRangeCheck, dstRangeCheck, srcOverlapCheck, keyOverlapCheck, ctLenCheck,
      modulusCheck, causeCode]

/-- No effect touches the lifecycle: it changes no control, status, error or operand field but BLK_A and BLK_B, and none of
the model's own fields. -/
theorem commandEffect_frame (i : Instr) (s : State) :
    (commandEffect i s).ie = s.ie ∧ (commandEffect i s).phase = s.phase ∧ (commandEffect i s).done = s.done ∧
    (commandEffect i s).haz = s.haz ∧ (commandEffect i s).cmd = s.cmd ∧ (commandEffect i s).errCode = s.errCode ∧
    (commandEffect i s).errCause = s.errCause ∧ (commandEffect i s).errInfo = s.errInfo ∧
    (commandEffect i s).turns = s.turns ∧ (commandEffect i s).resp = s.resp ∧ (commandEffect i s).draws = s.draws := by
  cases i <;> exact ⟨rfl, rfl, rfl, rfl, rfl, rfl, rfl, rfl, rfl, rfl, rfl⟩

/-- Every effect keeps the canonical form of the buffer. -/
theorem commandEffect_wf (i : Instr) (s : State) (h : Memory.wf s.buf) : Memory.wf (commandEffect i s).buf := by
  cases i <;> first | exact h | exact bufWrite_wf _ h _ _

end Sys2Proof.Machine
end

