-- ==== Sys2Proof/Laws/Digest.lean ====
section
/-! SUPPORT. The laws of the digest engine. -/

namespace Sys2Proof.Machine

theorem padZeros_lt (l : Nat) : padZeros l < 64 := by
  simp only [padZeros]
  omega

@[simp] theorem lenField_length (l : Nat) : (lenField l).length = 8 := by simp [lenField]

/-- The padded length (40_digest.md R131). -/
theorem digestPad_length (msg : List Byte) : (digestPad msg).length = 64 * ((msg.length + 8) / 64 + 1) := by
  simp only [digestPad, List.length_append, List.length_cons, List.length_nil, List.length_replicate, lenField_length,
    padZeros]
  omega

@[simp] theorem serializeDigest_length (h : DigestWords) : (serializeDigest h).length = 16 := by simp [serializeDigest]

/-- A digest has 16 bytes (40_digest.md R141). -/
@[simp] theorem digest16_length (msg : List Byte) : (digest16 msg).length = 16 := by simp [digest16]

@[simp] theorem parseBlock_length (b : List Byte) : (parseBlock b).length = 16 := by simp [parseBlock]

/-- One block more is one compression more (40_digest.md R130). -/
theorem digestBlocks_succ (p : List Byte) (n : Nat) :
    digestBlocks p (n + 1) = compress (digestBlocks p n) (parseBlock (slice p (64 * n) 64)) := by
  simp [digestBlocks, List.range_succ]

end Sys2Proof.Machine
end

