-- ==== Sys2Proof/Laws/HostAccess.lean ====
section
/-! SUPPORT. What a host access, a reset and a step can do, said once. -/

namespace Sys2Proof.Machine

/-! ## The window map -/

/-- The register window (20_memory.md R71, R76). -/
theorem busTarget_register (off w : Nat) :
    busTarget off w = .register off ↔ off < 0x1000 ∧ w = 8 ∧ off % 8 = 0 := by
  unfold busTarget Config.regWindowEnd Config.bufWindowBase Config.windowBytes
  split_ifs <;> simp_all

/-- A register target is the access's own offset. -/
theorem busTarget_eq_register (off w r : Nat) (h : busTarget off w = .register r) : r = off := by
  unfold busTarget at h
  split_ifs at h
  exact (Target.register.inj h).symm

/-- The buffer window (20_memory.md R71, R75). -/
theorem busTarget_eq_buffer (off w k : Nat) :
    busTarget off w = .buffer k ↔
      off = 0x10000 + k ∧ k < 0x10000 ∧ (w = 1 ∨ w = 2 ∨ w = 4 ∨ w = 8) ∧ k % w = 0 := by
  unfold busTarget Config.regWindowEnd Config.bufWindowBase Config.windowBytes
  constructor
  · intro h
    split_ifs at h with h1 h2 h3 h4 h5
    obtain ⟨hw, hm⟩ := h5
    have hk := Target.buffer.inj h
    refine ⟨by omega, by omega, hw, ?_⟩
    rcases hw with rfl | rfl | rfl | rfl <;> omega
  · rintro ⟨rfl, hk, hw, hm⟩
    have hm' : (65536 + k) % w = 0 := by rcases hw with rfl | rfl | rfl | rfl <;> omega
    rw [if_neg (by omega), if_neg (by omega), if_pos (by omega), if_pos ⟨hw, hm'⟩, Nat.add_sub_cancel_left]

/-! ## The register map -/

@[simp] theorem regAt_regOffset (r : Reg) : regAt (regOffset r) = some r := by cases r <;> rfl

theorem regOffset_of_regAt (w : Nat) (r : Reg) (hw : w % 8 = 0) (h : regAt w = some r) : w = regOffset r := by
  simp only [regAt] at h
  have hl : w / 8 < registerMap.length := by
    by_contra hn
    rw [List.getElem?_eq_none (by omega)] at h
    cases h
  have h27 : registerMap.length = 27 := rfl
  have key : ∀ k, k < 27 → ∀ r : Reg, registerMap[k]? = some r → 8 * k = regOffset r := by decide
  have := key (w / 8) (by omega) r h
  omega

/-- No register stands at a reserved offset (10_state.md R49). -/
theorem regAt_reserved (w : Nat) (h : 0xD8 ≤ w) : regAt w = none := by
  have h27 : registerMap.length = 27 := rfl
  simp only [regAt]
  exact List.getElem?_eq_none (by omega)

/-! ## Accesses -/

/-- What a host access can do: an error response, no answer of CORE's, or one of the four operations
(20_memory.md R71, R77; 43_system.md R231). -/
theorem hostAccess_cases (a : Access) (s : State) :
    (∃ f, busTarget a.off a.width = .refused f ∧ hostAccess a s = .next (s.respond (.error f))) ∨
    (busTarget a.off a.width = .elsewhere ∧ hostAccess a s = .next (s.respond .elsewhere)) ∨
    (∃ w, busTarget a.off a.width = .register w ∧ a.kind = .read ∧
      hostAccess a s = .next (s.respond (.data 8 (hostRegRead w s)))) ∨
    (∃ w v, busTarget a.off a.width = .register w ∧ a.kind = .write v ∧
      hostAccess a s = .next ((hostRegWrite w v s).respond .written)) ∨
    (∃ k, busTarget a.off a.width = .buffer k ∧ a.kind = .read ∧
      hostAccess a s = .next (hostBufRead k a.width s)) ∨
    (∃ k v, busTarget a.off a.width = .buffer k ∧ a.kind = .write v ∧
      hostAccess a s = .next ((hostBufWrite k a.width v s).respond .written)) := by
  simp only [hostAccess]
  cases hT : busTarget a.off a.width <;> cases hk : a.kind <;> simp

/-- Every host access completes, a bus error with an error response (20_memory.md R77). -/
theorem hostAccess_next (a : Access) (s : State) : ∃ t, hostAccess a s = .next t := by
  rcases hostAccess_cases a s with ⟨_, _, h⟩ | ⟨_, h⟩ | ⟨_, _, _, h⟩ | ⟨_, _, _, _, h⟩ | ⟨_, _, _, h⟩ | ⟨_, _, _, _, h⟩ <;>
    exact ⟨_, h⟩

/-- What a register write can do (43_system.md R233). -/
theorem writeReg_cases (r : Reg) (v : Word64) (s : State) :
    (r = .ctrl ∧ v.getLsbD 1 = true ∧ writeReg r v s = softReset s) ∨
    (r = .ctrl ∧ v.getLsbD 1 = false ∧ writeReg r v s = s.writeIe v) ∨
    (r = .status ∧ writeReg r v s = s.writeStatus v) ∨
    (r = .cmd ∧ s.phase = .idle ∧ writeReg r v s = s.accept v) ∨
    (isOperandReg r = true ∧ s.phase = .idle ∧ writeReg r v s = setOperand r v s) ∨
    ((r = .cmd ∨ isOperandReg r = true) ∧ s.phase = .busy ∧ writeReg r v s = s.hazard) ∨
    (r ≠ .ctrl ∧ r ≠ .status ∧ r ≠ .cmd ∧ isOperandReg r = false ∧ writeReg r v s = s) := by
  cases hv : v.getLsbD 1 with
  | true =>
    have hb : v[1] = true := hv
    cases hp : s.phase <;> cases r <;> simp [writeReg, isOperandReg, hp, hb]
  | false =>
    have hb : v[1] = false := hv
    cases hp : s.phase <;> cases r <;> simp [writeReg, isOperandReg, hp, hb]

@[simp] theorem writeStatus_done (s : State) (v : Word64) : (s.writeStatus v).done = (s.done && !v.getLsbD 1) := by
  simp only [State.writeStatus]
  cases h1 : v.getLsbD 1 <;> cases h3 : v.getLsbD 3 <;> simp

@[simp] theorem writeStatus_haz (s : State) (v : Word64) : (s.writeStatus v).haz = (s.haz && !v.getLsbD 3) := by
  simp only [State.writeStatus]
  cases h1 : v.getLsbD 1 <;> cases h3 : v.getLsbD 3 <;> simp

/-- A STATUS write changes DONE and HAZ alone. -/
theorem writeStatus_eq (s : State) (v : Word64) :
    s.writeStatus v = { s with done := s.done && !v.getLsbD 1, haz := s.haz && !v.getLsbD 3 } := by
  simp only [State.writeStatus, State.acknowledge]
  cases h1 : v.getLsbD 1 <;> cases h3 : v.getLsbD 3 <;> simp

/-! ## A step -/

/-- What a step can be, by the turn that is next. -/
theorem step_cases (s : State) :
    (s.turns = [] ∧ step s = engineTurn s) ∨
    (∃ ts, s.turns = .engine :: ts ∧ step s = engineTurn s.popTurn) ∨
    (∃ a ts, s.turns = .host a :: ts ∧ step s = hostAccess a s.popTurn) ∨
    (∃ ts, s.turns = .powerOn :: ts ∧ step s = .next (powerOnReset s.popTurn)) := by
  simp only [step]
  cases h : s.turns with
  | nil => simp
  | cons t ts => cases t <;> simp

/-- What an engine turn can be: nothing in IDLE, the completion of the latched word while BUSY. -/
theorem engineTurn_cases (s : State) :
    (s.phase = .idle ∧ engineTurn s = .next s) ∨
    (∃ i, s.phase = .busy ∧ decode s.cmd = .ok i ∧ engineTurn s = exec i s) ∨
    (∃ e, s.phase = .busy ∧ decode s.cmd = .error e ∧
      engineTurn s = .next (errorCompletion (decodeRaise e s.cmd) s)) := by
  simp only [engineTurn, fetchCommand, completeIllegal]
  cases h : s.phase with
  | idle => simp
  | busy => cases hd : decode s.cmd <;> simp

end Sys2Proof.Machine
end

