-- ==== Sys2Proof/Laws/Flags.lean ====
section
/-! SUPPORT. The bits of CTRL, STATUS and ERR, and what the registers read after a reset. -/

namespace Sys2Proof.Machine

/-- One bit of a flag in its place. -/
theorem flagAt_getLsbD (b : Bool) (k j : Nat) (hk : k < 64) : (flagAt b k).getLsbD j = (b && decide (j = k)) := by
  cases b with
  | false => simp [flagAt]
  | true =>
    by_cases h : j = k
    · subst h
      simp [flagAt, hk]
    · rcases Nat.lt_or_ge j k with h1 | h1
      · simp [flagAt, h]
        omega
      · have : j - k ≠ 0 := by omega
        simp [flagAt, h, this]

/-- The bits of STATUS (10_state.md R24). -/
theorem statusWord_getLsbD (s : State) (j : Nat) :
    (statusWord s).getLsbD j =
      ((busyFlag s && decide (j = 0)) || (s.done && decide (j = 1)) || (errFlag s && decide (j = 2)) ||
        (s.haz && decide (j = 3))) := by
  simp only [statusWord, BitVec.getLsbD_or, flagAt_getLsbD _ 0 _ (by decide), flagAt_getLsbD _ 1 _ (by decide),
    flagAt_getLsbD _ 2 _ (by decide), flagAt_getLsbD _ 3 _ (by decide)]

/-- The bits of CTRL (10_state.md R23). -/
theorem ctrlWord_getLsbD (s : State) (j : Nat) : (ctrlWord s).getLsbD j = (s.ie && decide (j = 0)) :=
  flagAt_getLsbD _ 0 _ (by decide)

/-- ERR is CODE plus 256 times CAUSE (60_exceptions.md R242). -/
theorem errWord_toNat (s : State) : (errWord s).toNat = s.errCode.toNat + 256 * s.errCause.toNat := by
  have h1 := s.errCode.isLt
  have h2 := s.errCause.isLt
  simp only [errWord, BitVec.toNat_or, BitVec.toNat_setWidth, BitVec.toNat_shiftLeft, Nat.shiftLeft_eq]
  rw [Nat.mod_eq_of_lt (show s.errCode.toNat < 2 ^ 64 by omega), Nat.mod_eq_of_lt (show s.errCause.toNat < 2 ^ 64 by omega),
    Nat.mod_eq_of_lt (by omega), Nat.or_comm, Nat.mul_comm, ← Nat.two_pow_add_eq_or_of_lt h1]
  omega

@[simp] theorem softReset_buf (s : State) :
    (softReset s).buf = bufScramble s.buf s.draws (abandonedRange s).1 (abandonedRange s).2 := rfl
@[simp] theorem softReset_phase (s : State) : (softReset s).phase = .idle := rfl
@[simp] theorem softReset_turns (s : State) : (softReset s).turns = s.turns := rfl
@[simp] theorem softReset_haz (s : State) : (softReset s).haz = false := rfl
@[simp] theorem powerOnReset_buf (s : State) : (powerOnReset s).buf = powerOnBuffer s.draws := by
  simp only [powerOnReset]
@[simp] theorem powerOnReset_phase (s : State) : (powerOnReset s).phase = .idle := rfl
@[simp] theorem powerOnReset_turns (s : State) : (powerOnReset s).turns = s.turns := rfl
@[simp] theorem powerOnReset_haz (s : State) : (powerOnReset s).haz = false := rfl

/-- No command, no abandoned range (70_reset_and_hazards.md R283). -/
theorem abandonedRange_idle (s : State) (h : s.phase = .idle) : abandonedRange s = (0, 0) := by
  simp [abandonedRange, h]

/-- A word that encodes no command has no output range. -/
theorem abandonedRange_error (s : State) (e : DecodeError) (h : decode s.cmd = .error e) : abandonedRange s = (0, 0) := by
  cases hp : s.phase <;> simp [abandonedRange, h, hp]

/-- The output range of the abandoned command (70_reset_and_hazards.md R283, 10_state.md R46). -/
theorem abandonedRange_ok (s : State) (i : Instr) (hp : s.phase = .busy) (h : decode s.cmd = .ok i) :
    abandonedRange s = (s.dstAddr.toNat, outputLength i s) := by
  simp [abandonedRange, hp, h, dstOff]

/-- After a soft reset every register reads its reset value (70_reset_and_hazards.md R282). -/
theorem readReg_softReset (r : Reg) (s : State) : readReg r (softReset s) = regResetValue r := by
  have h1 : statusWord (softReset s) = 0#64 := by
    simp only [statusWord, busyFlag, errFlag, softReset]
    decide
  have h2 : errWord (softReset s) = 0#64 := by
    simp only [errWord, softReset]
    decide
  cases r <;> first | rfl | exact h1 | exact h2

/-- After a power-on reset every register reads its reset value (70_reset_and_hazards.md R280). -/
theorem readReg_powerOnReset (r : Reg) (s : State) : readReg r (powerOnReset s) = regResetValue r := by
  have h1 : statusWord (powerOnReset s) = 0#64 := by
    simp only [statusWord, busyFlag, errFlag, powerOnReset]
    decide
  have h2 : errWord (powerOnReset s) = 0#64 := by
    simp only [errWord, powerOnReset]
    decide
  cases r <;> first | rfl | exact h1 | exact h2

end Sys2Proof.Machine
end

