-- ==== Sys2Proof/Laws/Operands.lean ====
section
/-! SUPPORT. The operands and the checks in the words of the claims (Safety.lean). -/

namespace Sys2Proof.Machine

open Sys2Proof.Safety

/-- CIPHER_CFG.ROUNDS (30_encoding.md R102). -/
@[simp] theorem cfgRounds_eq (s : State) : cfgRounds s = roundsOf s := by simp [cfgRounds, roundsOf]

/-- CIPHER_CFG.KEYLEN (30_encoding.md R102). -/
@[simp] theorem cfgKeyLen_eq (s : State) : cfgKeyLen s = keyLenOf s := by
  have := s.cipherCfg.isLt
  simp only [cfgKeyLen, keyLenOf, BitVec.extractLsb'_toNat, Nat.shiftRight_eq_div_pow]
  omega

theorem roundsOf_lt (s : State) : roundsOf s < 256 := Nat.mod_lt _ (by decide)

theorem keyLenOf_lt (s : State) : keyLenOf s < 256 := by
  have := s.cipherCfg.isLt
  simp only [keyLenOf]
  omega

/-- InRange (20_memory.md R82). -/
@[simp] theorem inRange_iff (b n : Nat) : inRange b n = true ↔ b + n ≤ 65536 :=
  decide_eq_true_iff

/-- The failed range check (20_memory.md R82). -/
theorem inRange_eq_false (b n : Nat) : inRange b n = false ↔ 65536 < b + n := by
  rw [← Bool.not_eq_true, inRange_iff, Nat.not_le]

/-- Overlap (20_memory.md R83). -/
theorem overlaps_iff (b1 n1 b2 n2 : Nat) : overlaps b1 n1 b2 n2 = true ↔ rangesMeet b1 n1 b2 n2 := by
  simp only [overlaps, decide_eq_true_eq, rangesMeet]
  constructor
  · rintro ⟨h1, h2, h3, h4⟩
    exact ⟨max b1 b2, by omega, by omega, by omega, by omega⟩
  · rintro ⟨x, h1, h2, h3, h4⟩
    omega

/-- Ranges that fail the overlap test share no byte. -/
theorem not_rangesMeet (b1 n1 b2 n2 : Nat) (h : overlaps b1 n1 b2 n2 = false) : ¬ rangesMeet b1 n1 b2 n2 := by
  rw [← overlaps_iff, h]
  simp

/-- CipherCheck passes exactly on legal operands (41_cipher.md R160). -/
theorem cipherChecks_pass (s : State) : firstError (cipherChecks s) = none ↔ cipherLegal s := by
  simp only [firstError_eq_none, cipherChecks, List.forall_mem_cons, cfgRounds_eq, cfgKeyLen_eq, keyOff, cipherLegal,
    beq_eq_false_iff_ne, bne_eq_false_iff_eq, Bool.not_eq_false', inRange_iff]
  simp

/-- Tests after tests: the first error of the former, else of the latter (60_exceptions.md R246). -/
theorem firstError_append (cs ds : List Check) :
    firstError (cs ++ ds) = match firstError cs with
      | some e => some e
      | none => firstError ds := by
  induction cs with
  | nil => rfl
  | cons c cs ih => cases h : c.fails <;> simp [h, ih]

/-- With legal cipher operands only the later tests count. -/
theorem firstError_cipher (s : State) (ds : List Check) (h : cipherLegal s) :
    firstError (cipherChecks s ++ ds) = firstError ds := by
  rw [firstError_append, (cipherChecks_pass s).2 h]

/-- The completion of a command whose first error is `e`, as the claims write it (60_exceptions.md R248). -/
theorem exec_error (i : Instr) (s : State) (e : Raise) (h : firstError (commandChecks i s) = some e) :
    exec i s = failed (causeCode e.cause) (causeNumber e.cause) e.info s := by
  rw [exec_eq, completeCommand, h]
  rfl

/-- The completion of a command no test of which fails (60_exceptions.md R250). -/
theorem exec_success (i : Instr) (s : State) (h : firstError (commandChecks i s) = none) :
    exec i s = .next (commandEffect i s).finish := by
  rw [exec_eq, completeCommand, h]
  rfl

/-- The bytes of a range written inside the buffer, as the claims write it (20_memory.md R81). -/
theorem bufferHolds_bufWrite (m : Memory) (h : Memory.wf m) (a : Nat) (bs : List Byte) (hb : a + bs.length ≤ 65536) :
    bufferHolds (bufWrite m a bs) m a bs :=
  ⟨fun k hk => read_bufWrite_in m h a bs k hk (by simp only [Config.bufBytes]; omega),
    fun x hx => read_bufWrite_out m h a bs x hx⟩

/-- Reading a range the buffer holds gives its bytes. -/
theorem bufRead_of_bufferHolds (t m : Memory) (a : Nat) (bs : List Byte) (h : bufferHolds t m a bs) :
    bufRead t a bs.length = bs := by
  refine List.ext_getElem? fun k => ?_
  by_cases hk : k < bs.length
  · rw [bufRead_getElem? _ _ _ _ hk, h.1 k hk]
    simp [List.getD, hk]
  · simp [bufRead, hk]

end Sys2Proof.Machine
end

