-- ==== Sys2Proof/Laws/PerInstr.lean ====
section
/-! SUPPORT. Per-instruction statements about the commands as syntax. -/

namespace Sys2Proof.Laws.WordRoundTrip

/-- A command is well-formed; its word is well-formed and decodes to it, also read as the opcode table numbers its bits; and
any reserved bit set in its word makes the word ill-formed (30_encoding.md R100 to R106). -/
def Statement (i : Instr) : Prop :=
  i.wf = true ∧ commandWordWf (encode i) = true ∧ decode (encode i) = .ok i ∧
    decodeTableWord 64 (encode i).toNat = some i ∧
    ∀ k, k < 56 → decode (encode i ||| (1#64 <<< (8 + k))) = .error .reservedBits

theorem nop : Statement .nop := by unfold Statement; decide +kernel

theorem digest : Statement .digest := by unfold Statement; decide +kernel

theorem keyexp : Statement .keyexp := by unfold Statement; decide +kernel

theorem encblk : Statement .encblk := by unfold Statement; decide +kernel

theorem decblk : Statement .decblk := by unfold Statement; decide +kernel

theorem enccbc : Statement .enccbc := by unfold Statement; decide +kernel

theorem deccbc : Statement .deccbc := by unfold Statement; decide +kernel

theorem prgload : Statement .prgload := by unfold Statement; decide +kernel

theorem prggen : Statement .prggen := by unfold Statement; decide +kernel

theorem prggenn : Statement .prggenn := by unfold Statement; decide +kernel

theorem prgperiod : Statement .prgperiod := by unfold Statement; decide +kernel

end Sys2Proof.Laws.WordRoundTrip
end

