-- ==== Sys2Proof/Laws/Prg.lean ====
section
/-! SUPPORT. The laws of the pseudo-random generator. -/

namespace Sys2Proof.Machine

/-- The step is exact (42_prg.md R210). -/
theorem lcgNext_toNat (a c m s : Word64) (h : m ≠ 0#64) :
    (lcgNext a c m s).toNat = (a.toNat * s.toNat + c.toNat) % m.toNat := by
  have hm : 0 < m.toNat := Nat.pos_of_ne_zero fun h0 => h (BitVec.eq_of_toNat_eq (by simpa using h0))
  have hlt := Nat.mod_lt (a.toNat * s.toNat + c.toNat) hm
  simp only [lcgNext, BitVec.toNat_ofNat]
  exact Nat.mod_eq_of_lt (Nat.lt_trans hlt m.isLt)

/-- A step's value is below the modulus (42_prg.md R212). -/
theorem lcgNext_lt (a c m s : Word64) (h : m ≠ 0#64) : (lcgNext a c m s).toNat < m.toNat := by
  rw [lcgNext_toNat a c m s h]
  exact Nat.mod_lt _ (Nat.pos_of_ne_zero fun h0 => h (BitVec.eq_of_toNat_eq (by simpa using h0)))

/-- Steps add up. -/
theorem lcgSteps_add (a c m : Word64) (n k : Nat) (s : Word64) :
    lcgSteps a c m (n + k) s = lcgSteps a c m k (lcgSteps a c m n s) := by
  induction n generalizing s with
  | zero => simp [lcgSteps]
  | succ n ih =>
    rw [show n + 1 + k = (n + k) + 1 by omega]
    exact ih _

/-- The last step of several. -/
theorem lcgSteps_succ (a c m : Word64) (n : Nat) (s : Word64) :
    lcgSteps a c m (n + 1) s = lcgNext a c m (lcgSteps a c m n s) := by
  rw [lcgSteps_add a c m n 1 s]
  rfl

end Sys2Proof.Machine
end

