-- ==== Sys2Proof/Laws/Run.lean ====
section
/-! SUPPORT. Runs of several steps, one step at a time. -/

namespace Sys2Proof.Machine

/-- A run whose first step answers a next state goes on from there. -/
theorem Core_run_next (M : Host.Core) {n : Nat} {s t : M.State} (h : M.step s = .next t) :
    M.run (n + 1) s = M.run n t := by
  simp only [Host.Core.run, h]

/-- The same for CORE. -/
theorem run_next {n : Nat} {s t : State} (h : step s = .next t) :
    Host.Core.run Sys2Proof.core (n + 1) s = Host.Core.run Sys2Proof.core n t :=
  Core_run_next Sys2Proof.core h

/-- No steps answer the state itself. -/
theorem run_zero (s : State) : Host.Core.run Sys2Proof.core 0 s = .next s := rfl

/-- A host turn is the host's access. -/
theorem step_host (s : State) (a : Access) (ts : List Turn) (h : s.turns = .host a :: ts) :
    step s = hostAccess a { s with turns := ts } := by
  simp [step, h, State.popTurn]

/-- An engine turn is the engine's. -/
theorem step_engine (s : State) (ts : List Turn) (h : s.turns = .engine :: ts) :
    step s = engineTurn { s with turns := ts } := by
  simp [step, h, State.popTurn]

/-- A power-on turn resets. -/
theorem step_powerOn (s : State) (ts : List Turn) (h : s.turns = .powerOn :: ts) :
    step s = .next (powerOnReset { s with turns := ts }) := by
  simp [step, h, State.popTurn]

/-- A legal register read answers the register (43_system.md R232). -/
theorem hostAccess_read (w : Nat) (s : State) (h : w < 0x1000) (h8 : w % 8 = 0) :
    hostAccess ⟨w, 8, .read⟩ s = .next (s.respond (.data 8 (hostRegRead w s))) := by
  have := (busTarget_register w 8).2 ⟨h, rfl, h8⟩
  simp [hostAccess, this]

/-- A legal register write (43_system.md R233). -/
theorem hostAccess_write (w : Nat) (v : Word64) (s : State) (h : w < 0x1000) (h8 : w % 8 = 0) :
    hostAccess ⟨w, 8, .write v⟩ s = .next ((hostRegWrite w v s).respond .written) := by
  have := (busTarget_register w 8).2 ⟨h, rfl, h8⟩
  simp [hostAccess, this]

/-- A register's offset is aligned and inside the register window (10_state.md R21). -/
theorem regOffset_bounds (r : Reg) : regOffset r < 0x1000 ∧ regOffset r % 8 = 0 := by cases r <;> decide

end Sys2Proof.Machine
end

