-- ==== Sys2Proof/Tests/Slice0.lean ====
section
/-! SUPPORT. The model's own tests: ill-formed words the checks refuse, every command's word written out, vectors of
spec/95_test_vectors.md, and for every statement with hypotheses a state and operands that meet them. Expected values are
the spec's. -/

open Sys2Proof Sys2Proof.Machine Sys2Proof.Safety

namespace Sys2Proof.Tests

-- One theorem after another: many waiting kernel evaluations would each hold a thread's stack.
set_option Elab.async false

/-! ## WellFormed -/

/-- 0xFF is no opcode (30_encoding.md R105). -/
theorem test_wf_opcode_refused : opcodeDefined 0xFF#64 = false := by decide

/-- 0x02, the first gap of the opcode map. -/
theorem test_wf_gap_refused : commandWordWf 0x02#64 = false := by decide

/-- Bit 8 is reserved (30_encoding.md R106). -/
theorem test_wf_reserved_refused : reservedClear 0x100#64 = false ∧ commandWordWf 0x100#64 = false := by decide

/-- Bit 63 is reserved. -/
theorem test_wf_top_bit_refused : commandWordWf 0x8000000000000001#64 = false := by decide

theorem test_wf_word_accepted : commandWordWf 0x13#64 = true := by decide

/-! ## Decode: the words of 30_encoding.md R103, written out bit by bit, RSVD then OPCODE -/

theorem test_decode_nop : decode (0#56 ++ 0b00000000#8) = .ok .nop ∧ encode .nop = 0x00#64 := by decide
theorem test_decode_digest : decode (0#56 ++ 0b00000001#8) = .ok .digest ∧ encode .digest = 0x01#64 := by decide
theorem test_decode_keyexp : decode (0#56 ++ 0b00001000#8) = .ok .keyexp ∧ encode .keyexp = 0x08#64 := by decide
theorem test_decode_encblk : decode (0#56 ++ 0b00001001#8) = .ok .encblk ∧ encode .encblk = 0x09#64 := by decide
theorem test_decode_decblk : decode (0#56 ++ 0b00001010#8) = .ok .decblk ∧ encode .decblk = 0x0A#64 := by decide
theorem test_decode_enccbc : decode (0#56 ++ 0b00001011#8) = .ok .enccbc ∧ encode .enccbc = 0x0B#64 := by decide
theorem test_decode_deccbc : decode (0#56 ++ 0b00001100#8) = .ok .deccbc ∧ encode .deccbc = 0x0C#64 := by decide
theorem test_decode_prgload : decode (0#56 ++ 0b00010000#8) = .ok .prgload ∧ encode .prgload = 0x10#64 := by decide
theorem test_decode_prggen : decode (0#56 ++ 0b00010001#8) = .ok .prggen ∧ encode .prggen = 0x11#64 := by decide
theorem test_decode_prggenn : decode (0#56 ++ 0b00010010#8) = .ok .prggenn ∧ encode .prggenn = 0x12#64 := by decide
theorem test_decode_prgperiod : decode (0#56 ++ 0b00010011#8) = .ok .prgperiod ∧ encode .prgperiod = 0x13#64 := by decide

/-- The table decoder answers none where the decoder refuses. -/
theorem test_decode_table : decodeTableWord 64 0x13 = some .prgperiod ∧ decodeTableWord 64 0x14 = none ∧
    decodeTableWord 64 0x111 = none := by decide

/-! ## Vectors of 95_test_vectors.md -/

/-- What holds of the state after one step, if there is one. -/
def afterStep (s : State) (p : State → Bool) : Bool :=
  match step s with
  | .next t => p t
  | .fault _ => false
  | .refused _ => false

theorem next_of_afterStep (s : State) (p : State → Bool) (h : afterStep s p = true) : ∃ t, step s = .next t ∧ p t = true := by
  unfold afterStep at h
  split at h
  · rename_i t ht
    exact ⟨t, ht, h⟩
  · exact absurd h (by decide)
  · exact absurd h (by decide)

/-- What holds after the command word `w` runs on the state `s`. -/
def afterWord (s : State) (w : Nat) (p : State → Bool) : Bool := afterStep (s.withFetchWord 64 w) p

/-- The state after reset with one byte sequence in the buffer. -/
def withBytes (k : Nat) (bs : List Byte) : State := { State.reset with buf := bufWrite [] k bs }

/-- The message "abc" at 0, its digest to 0x100 (program P1). -/
def abcState : State := { withBytes 0 [0x61#8, 0x62#8, 0x63#8] with srcLen := 3#64, dstAddr := 0x100#64 }

/-- The key 01 02 03 04 at 0x40 with r = 1, b = 4 (KX2), the destination at 0x100. -/
def keyState : State :=
  { withBytes 0x40 [1#8, 2#8, 3#8, 4#8] with cipherCfg := 0x0401#16, keyAddr := 0x40#64, dstAddr := 0x100#64 }

/-- The key 16 x 00 with r = 12, b = 16, the bytes `bs` at 0x200, the destination at 0x300. -/
def cbcState (bs : List Byte) : State :=
  { withBytes 0x200 bs with
    cipherCfg := 0x100C#16, srcAddr := 0x200#64, srcLen := BitVec.ofNat 64 bs.length, dstAddr := 0x300#64 }

/-- A generator (a, c, m, s) in the staging and in the live registers. -/
def prgState (a c m s : Word64) : State :=
  { State.reset with prgA := a, prgC := c, prgM := m, prgSeed := s, lcgA := a, lcgC := c, lcgM := m, lcgS := s }

/-- SY1. -/
theorem test_nop_SY1 :
    afterWord State.reset 0x00 (fun t => readReg .status t == 0x2#64 && readReg .cmd t == 0#64 && !irq t) = true := by
  decide +kernel

/-- DG3: the digest of "abc". -/
theorem test_digest_DG3 :
    afterWord abcState 0x01 (fun t => t.digestLo == 0xb04fd23c98500190#64 && t.digestHi == 0x727fe1287d3f96d6#64 &&
      le64 (bufRead t.buf 0x108 8) == 0x727fe1287d3f96d6#64 && t.outLen == 16#64) = true := by
  decide +kernel

/-- ER22: the destination overlaps the source. -/
theorem test_digest_ER22 :
    afterWord { State.reset with srcLen := 3#64, dstAddr := 1#64 } 0x01
      (fun t => readReg .err t == 0x801#64 && t.errInfo == 1#64 && readReg .status t == 0x6#64) = true := by
  decide +kernel

/-- KX2. -/
theorem test_keyexp_KX2 :
    afterWord keyState 0x08 (fun t => le32 (bufRead t.buf 0x100 4) == 0x30081b30#32 &&
      le32 (bufRead t.buf 0x10C 4) == 0x798d7b2c#32 && t.outLen == 16#64) = true := by
  decide +kernel

/-- ER24: the schedule overlaps the key. -/
theorem test_keyexp_ER24 :
    afterWord { State.reset with cipherCfg := 0x100C#16, keyAddr := 0x40#64 } 0x08
      (fun t => readReg .err t == 0x801#64 && t.errInfo == 0#64) = true := by
  decide +kernel

/-- EB1: the zero-key vector. -/
theorem test_encblk_EB1 :
    afterWord (cbcState []) 0x09 (fun t => t.blkA == 0xeedba521#32 && t.blkB == 0x6d8f4b15#32) = true := by
  decide +kernel

/-- EB5 with the key of KX1. -/
theorem test_encblk_EB5 :
    afterWord { withBytes 0 [0#8, 1#8, 2#8, 3#8] with cipherCfg := 0x0401#16, blkA := 1#32 } 0x09
      (fun t => t.blkA == 0x533bece5#32 && t.blkB == 0x27579a58#32) = true := by
  decide +kernel

/-- EB2. -/
theorem test_decblk_EB2 :
    afterWord (cbcState []) 0x0A (fun t => t.blkA == 0x48e56c13#32 && t.blkB == 0x9616f90f#32) = true := by
  decide +kernel

/-- ER10: b = 1. -/
theorem test_decblk_ER10 :
    afterWord { State.reset with cipherCfg := 0x010C#16 } 0x0A
      (fun t => readReg .err t == 0x301#64 && t.errInfo == 0x10C#64) = true := by
  decide +kernel

/-- CB2: 21a5dbee154b8f6d 666c89aa1440f266. -/
theorem test_enccbc_CB2 :
    afterWord (cbcState [1#8, 2#8, 3#8]) 0x0B (fun t => le64 (bufRead t.buf 0x300 8) == 0x6d8f4b15eedba521#64 &&
      le64 (bufRead t.buf 0x308 8) == 0x66f24014aa896c66#64 && t.outLen == 16#64) = true := by
  decide +kernel

/-- ER21: the output is longer than the buffer. -/
theorem test_enccbc_ER21 :
    afterWord { State.reset with cipherCfg := 0x100C#16, keyAddr := 0xFFF0#64, srcLen := 65528#64 } 0x0B
      (fun t => readReg .err t == 0x701#64 && t.errInfo == 0#64) = true := by
  decide +kernel

/-- CB10: 0ff91696136ce548. -/
theorem test_deccbc_CB10 :
    afterWord (cbcState (List.replicate 16 0#8)) 0x0C
      (fun t => le64 (bufRead t.buf 0x300 8) == 0x48e56c139616f90f#64 && t.outLen == 8#64) = true := by
  decide +kernel

/-- ER18: SRC_RANGE wins over CT_LEN_NOT_MULT8. -/
theorem test_deccbc_ER18 :
    afterWord { State.reset with cipherCfg := 0x100C#16, srcAddr := 0xFFFF#64, srcLen := 3#64 } 0x0C
      (fun t => readReg .err t == 0x501#64 && t.errInfo == 0xFFFF#64) = true := by
  decide +kernel

/-- PG11: a seed at or above the modulus is stored as it is. -/
theorem test_prgload_PG11 :
    afterWord { prgState 5#64 3#64 16#64 100#64 with lcgS := 0#64 } 0x10
      (fun t => t.lcgS == 100#64 && t.lcgM == 16#64 && t.result == 0#64) = true := by
  decide +kernel

/-- ER28. -/
theorem test_prgload_ER28 :
    afterWord { prgState 5#64 3#64 16#64 0#64 with prgM := 0#64 } 0x10
      (fun t => readReg .err t == 0x901#64 && t.lcgM == 16#64) = true := by
  decide +kernel

/-- PG11: one step from 100. -/
theorem test_prggen_PG11 :
    afterWord (prgState 5#64 3#64 16#64 100#64) 0x11 (fun t => t.result == 7#64 && t.lcgS == 7#64) = true := by
  decide +kernel

/-- PE4: the product is not cut to 64 bits. -/
theorem test_prggen_PE4 :
    afterWord (prgState 2#64 0#64 0xFFFFFFFFFFFFFFFF#64 0x8000000000000000#64) 0x11 (fun t => t.result == 1#64) = true := by
  decide +kernel

/-- PG13: five steps. -/
theorem test_prggenn_PG13 :
    afterWord { prgState 1103515245#64 12345#64 2147483647#64 42#64 with prgN := 5#64 } 0x12
      (fun t => t.result == 937264594#64 && t.lcgS == 937264594#64) = true := by
  decide +kernel

/-- ER27: checked even with PRG_N = 0. -/
theorem test_prggenn_ER27 : afterWord State.reset 0x12 (fun t => readReg .err t == 0x901#64) = true := by
  decide +kernel

/-- PG8: tail 3, cycle 8. -/
theorem test_prgperiod_PG8 :
    afterWord { prgState 1103515245#64 12345#64 1000#64 42#64 with lcgS := 9#64 } 0x13
      (fun t => t.result == 8#64 && t.lcgS == 9#64) = true := by
  decide +kernel

/-- PG12: a seed at or above the modulus, tail 1, cycle 1. -/
theorem test_prgperiod_PG12 :
    afterWord (prgState 1#64 0#64 7#64 100#64) 0x13 (fun t => t.result == 1#64) = true := by
  decide +kernel

/-- RT1 to RT4. -/
theorem test_rotations : rotl 0x12345678#32 0 = 0x12345678#32 ∧ rotl 0x12345678#32 32 = 0x12345678#32 ∧
    rotl 0x12345678#32 33 = 0x2468acf0#32 ∧ rotr 0x12345678#32 4 = 0x81234567#32 := by decide

/-! ## The host's accesses -/

/-- The state with one host access next. -/
def hostState (s : State) (off width : Nat) (k : AccessKind) : State := { s with turns := [.host ⟨off, width, k⟩] }

/-- A state in which the command word `v` is executing. -/
def busyWith (s : State) (v : Word64) : State := s.accept v

/-- ER1: 0xFF. -/
theorem test_illegal_ER1 :
    afterWord State.reset 0xFF (fun t => readReg .err t == 0x102#64 && t.errInfo == 0xFF#64) = true := by decide +kernel

/-- ER4: the reserved top bit. -/
theorem test_illegal_ER4 :
    afterWord State.reset 0x8000000000000001 (fun t => readReg .err t == 0x202#64 &&
      t.errInfo == 0x8000000000000001#64) = true := by decide +kernel

/-- SY6 with BUSY = 0 and an error reported: DONE and HAZ clear, ERR stays. -/
theorem test_status_SY6 :
    afterStep (hostState { State.reset with done := true, haz := true, errCode := 1#8 } 0x010 8 (.write 0xF#64))
      (fun t => readReg .status t == 0x4#64) = true := by decide +kernel

/-- SY9. -/
theorem test_cfg_SY9 :
    afterStep (hostState State.reset 0x050 8 (.write 0xFFFFFFFFFFFFFFFF#64))
      (fun t => readReg .cipherCfg t == 0xFFFF#64) = true := by decide +kernel

/-- SY10. -/
theorem test_blk_SY10 :
    afterStep (hostState State.reset 0x060 8 (.write 0x123456789#64))
      (fun t => readReg .blkA t == 0x23456789#64) = true := by decide +kernel

/-- SY8: ID ignores writes. -/
theorem test_id_SY8 :
    afterStep (hostState State.reset 0x000 8 (.write 5#64))
      (fun t => readReg .id t == 0x0000000145524F43#64) = true := by decide +kernel

/-- SY11, SY12, SY13: bus errors, which change nothing. -/
theorem test_bus_errors_SY11 :
    step (hostState State.reset 0x030 4 (.write 1#64)) =
      .next { State.reset with resp := .error (.badRegisterAccess 0x030 4) } ∧
    step (hostState State.reset 0x10002 4 (.write 1#64)) =
      .next { State.reset with resp := .error (.badBufferAccess 0x10002 4) } ∧
    step (hostState State.reset 0x01000 8 .read) = .next { State.reset with resp := .error (.unmapped 0x01000) } :=
  ⟨rfl, rfl, rfl⟩

/-- R244, R294: a bus error while BUSY leaves STATUS 0x1, and the command then completes (STATUS 0x2). -/
theorem test_busy_bus_error :
    afterStep (hostState (busyWith State.reset 0x00#64) 0x030 4 (.write 1#64)) (fun t => readReg .status t == 1#64 &&
      afterStep t (fun u => readReg .status u == 2#64)) = true := by decide +kernel

/-- SY14: little-endian. -/
theorem test_bytes_SY14 :
    afterStep (hostState State.reset 0x10010 8 (.write 0x0807060504030201#64)) (fun t =>
      afterStep (hostState t 0x10012 2 .read) (fun u => u.resp == .data 2 0x0403#64) &&
      afterStep (hostState t 0x10014 4 .read) (fun u => u.resp == .data 4 0x08070605#64)) = true := by decide +kernel

/-- SY15, SY18: dropped while BUSY. -/
theorem test_busy_SY15 :
    afterStep (hostState (busyWith State.reset 0x13#64) 0x030 8 (.write 7#64))
      (fun t => t.srcAddr == 0#64 && readReg .status t == 0x9#64) = true ∧
    afterStep (hostState (busyWith State.reset 0x13#64) 0x018 8 (.write 0x11#64))
      (fun t => t.cmd == 0x13#64 && readReg .status t == 0x9#64) = true := by decide +kernel

/-- SY16: a register read while BUSY is no hazard. -/
theorem test_busy_SY16 :
    afterStep (hostState (busyWith { State.reset with result := 5#64 } 0x13#64) 0x0B8 8 .read)
      (fun t => t.resp == .data 8 5#64 && !t.haz) = true := by decide +kernel

/-- SY19: a soft reset abandons PRGPERIOD; the buffer is unchanged. -/
theorem test_softReset_SY19 :
    afterStep (hostState (busyWith abcState 0x13#64) 0x008 8 (.write 2#64))
      (fun t => readReg .status t == 0#64 && t.cmd == 0#64 && t.buf == abcState.buf) = true := by decide +kernel

/-- SY5: bit 1 resets, whatever bit 0. -/
theorem test_softReset_SY5 :
    afterStep (hostState State.reset 0x008 8 (.write 3#64)) (fun t => readReg .ctrl t == 0#64) = true := by decide +kernel

/-- SY4: with DONE = 1 and BUSY = 0, writing IE = 1 raises IRQ, and writing IE = 0 drops it while DONE stays. -/
theorem test_ctrl_SY4 :
    afterStep (hostState { State.reset with done := true } 0x008 8 (.write 1#64)) (fun t => irq t && t.done) = true ∧
    afterStep (hostState { State.reset with done := true, ie := true } 0x008 8 (.write 0#64))
      (fun t => !irq t && t.done) = true := by decide +kernel

/-- SY3: IRQ after a completion with IE = 1. -/
theorem test_irq_SY3 : afterWord { State.reset with ie := true } 0x00 (fun t => irq t) = true := by decide +kernel

/-! ## Witnesses: for every statement with hypotheses, values that meet them; where it has several clauses, values at the
boundary of each -/

/-- Words for the three clauses, the first and last of each gap of the opcode map among them. -/
theorem witness_EveryWordDecodesToOneCase :
    (∀ v ∈ [0x02#64, 0x07#64, 0x0D#64, 0x0F#64, 0x14#64, 0xFF#64, 0x102#64],
      (v.toNat % 256) ∉ [0x00, 0x01, 0x08, 0x09, 0x0A, 0x0B, 0x0C, 0x10, 0x11, 0x12, 0x13]) ∧
    (∀ v ∈ [0x100#64, 0x113#64, 0x8000000000000001#64],
      (v.toNat % 256) ∈ [0x00, 0x01, 0x08, 0x09, 0x0A, 0x0B, 0x0C, 0x10, 0x11, 0x12, 0x13] ∧ v.toNat / 256 ≠ 0) ∧
    ((0x13#64).toNat % 256 = 0x13 ∧ (0x13#64).toNat / 256 = 0) := by simp

theorem witness_EncodeAndDecodeAgree : Instr.wf .deccbc = true ∧ decode 0x0C#64 = .ok .deccbc := by decide

/-- DIGEST executing, with no turn listed, and with the engine's. -/
theorem witness_StepRunsTheDecodedCommand :
    (busyWith abcState 0x01#64).phase = .busy ∧ decode (busyWith abcState 0x01#64).cmd = .ok .digest ∧
    (busyWith abcState 0x01#64).turns = [] ∧
    ({ busyWith abcState 0x01#64 with turns := [.engine, .powerOn] } : State).turns = .engine :: [.powerOn] := by decide

theorem witness_AcceptanceOfACommandWord :
    (hostState abcState 0x018 8 (.write 1#64)).phase = .idle ∧
    (hostState abcState 0x018 8 (.write 1#64)).turns = .host ⟨0x018, 8, .write 1#64⟩ :: [] := by decide

/-- A host write of the word `v` to CMD, then the engine's turn. -/
def runWord (s : State) (v : Word64) : State := { s with turns := [.host ⟨0x018, 8, .write v⟩, .engine] }

theorem witness_IllegalWordsCompleteWithAnError :
    (runWord abcState 0xFF#64).phase = .idle ∧
    (runWord abcState 0xFF#64).turns = .host ⟨0x018, 8, .write 0xFF#64⟩ :: .engine :: [] ∧
    (∀ v ∈ [0x02#64, 0x07#64, 0x0D#64, 0x0F#64, 0x14#64, 0xFF#64, 0x102#64],
      (0x02 ≤ v.toNat % 256 ∧ v.toNat % 256 ≤ 0x07) ∨ (0x0D ≤ v.toNat % 256 ∧ v.toNat % 256 ≤ 0x0F) ∨
        0x14 ≤ v.toNat % 256) ∧
    (∀ v ∈ [0x100#64, 0x113#64, 0x8000000000000001#64],
      (v.toNat % 256) ∈ [0x00, 0x01, 0x08, 0x09, 0x0A, 0x0B, 0x0C, 0x10, 0x11, 0x12, 0x13] ∧
        v.toNat / 256 ≠ 0) := by simp [runWord, abcState, withBytes, State.reset]

theorem witness_ErrorsArePrecise :
    ∃ t, (runWord abcState 0xFF#64).phase = .idle ∧
      (runWord abcState 0xFF#64).turns = .host ⟨0x018, 8, .write 0xFF#64⟩ :: .engine :: [] ∧
      Host.Core.run core 2 (runWord abcState 0xFF#64) = .next t ∧ t.errCode ≠ 0#8 := by
  obtain ⟨u, hu, hp⟩ := next_of_afterStep (runWord abcState 0xFF#64)
    (fun u => afterStep u fun t => t.errCode != 0#8) (by decide +kernel)
  obtain ⟨t, ht, hq⟩ := next_of_afterStep u _ hp
  exact ⟨t, by decide, by decide, (run_next hu).trans (run_next ht), by simpa using hq⟩

/-- The digest of "abc" to the last place in range (DG19). -/
def abcEnd : State := { abcState with dstAddr := 0xFFF0#64 }

theorem witness_DigestWritesTheDigest :
    Memory.wf abcEnd.buf ∧ abcEnd.srcAddr.toNat + abcEnd.srcLen.toNat ≤ 65536 ∧ abcEnd.dstAddr.toNat + 16 ≤ 65536 ∧
    ¬ rangesMeet abcEnd.dstAddr.toNat 16 abcEnd.srcAddr.toNat abcEnd.srcLen.toNat :=
  ⟨by decide, by decide, by decide, not_rangesMeet _ _ _ _ (by decide)⟩

theorem witness_cipherLegal : cipherLegal keyState ∧ cipherLegal (cbcState [1#8, 2#8, 3#8]) :=
  ⟨⟨by decide, by decide, by decide, by decide⟩, ⟨by decide, by decide, by decide, by decide⟩⟩

theorem witness_KeyexpWritesTheSchedule :
    Memory.wf keyState.buf ∧ cipherLegal keyState ∧ keyState.dstAddr.toNat + 8 * (roundsOf keyState + 1) ≤ 65536 ∧
    ¬ rangesMeet keyState.dstAddr.toNat (8 * (roundsOf keyState + 1)) keyState.keyAddr.toNat (keyLenOf keyState) :=
  ⟨by decide, witness_cipherLegal.1, by decide, not_rangesMeet _ _ _ _ (by decide)⟩

theorem witness_EncblkEncryptsTheBlock : cipherLegal keyState := witness_cipherLegal.1

theorem witness_DecblkDecryptsTheBlock : cipherLegal keyState := witness_cipherLegal.1

/-- The plaintext 01 02 03 (CB2). -/
def cb2 : State := cbcState [1#8, 2#8, 3#8]

theorem witness_EnccbcWritesTheCiphertext :
    Memory.wf cb2.buf ∧ cipherLegal cb2 ∧ cb2.srcAddr.toNat + cb2.srcLen.toNat ≤ 65536 ∧
    cb2.dstAddr.toNat + (16 + 8 * (cb2.srcLen.toNat / 8)) ≤ 65536 ∧
    ¬ rangesMeet cb2.dstAddr.toNat (16 + 8 * (cb2.srcLen.toNat / 8)) cb2.srcAddr.toNat cb2.srcLen.toNat ∧
    ¬ rangesMeet cb2.dstAddr.toNat (16 + 8 * (cb2.srcLen.toNat / 8)) cb2.keyAddr.toNat (keyLenOf cb2) :=
  ⟨by decide, witness_cipherLegal.2, by decide, by decide, not_rangesMeet _ _ _ _ (by decide),
    not_rangesMeet _ _ _ _ (by decide)⟩

/-- A ciphertext of `n` bytes 01; for n = 16 that of two blocks, for n = 8 and n = 0 the output is empty. -/
def ctState (n : Nat) : State := cbcState (List.replicate n 1#8)

theorem witness_DeccbcWritesThePlaintext : ∀ n ∈ [0, 8, 16],
    Memory.wf (ctState n).buf ∧ cipherLegal (ctState n) ∧ (ctState n).srcAddr.toNat + (ctState n).srcLen.toNat ≤ 65536 ∧
    (ctState n).srcLen.toNat % 8 = 0 ∧ (ctState n).dstAddr.toNat + ((ctState n).srcLen.toNat - 8) ≤ 65536 ∧
    ¬ rangesMeet (ctState n).dstAddr.toNat ((ctState n).srcLen.toNat - 8) (ctState n).srcAddr.toNat
      (ctState n).srcLen.toNat ∧
    ¬ rangesMeet (ctState n).dstAddr.toNat ((ctState n).srcLen.toNat - 8) (ctState n).keyAddr.toNat
      (keyLenOf (ctState n)) := by
  intro n hn
  have h : n = 0 ∨ n = 8 ∨ n = 16 := by simpa using hn
  rcases h with rfl | rfl | rfl <;>
    exact ⟨by decide, ⟨by decide, by decide, by decide, by decide⟩, by decide, by decide, by decide,
      not_rangesMeet _ _ _ _ (by decide), not_rangesMeet _ _ _ _ (by decide)⟩

/-- PG1. -/
def pg1 : State := prgState 5#64 3#64 16#64 0#64

theorem witness_PrgloadConstructsTheGenerator : pg1.prgM ≠ 0#64 := by decide

theorem witness_PrggenTakesOneStep : pg1.lcgM ≠ 0#64 := by decide

/-- PRG_N = 0, and PRG_N = 1. -/
theorem witness_PrggennIsRepeatedPrggen :
    pg1.lcgM ≠ 0#64 ∧ pg1.prgN = 0#64 ∧ ({ pg1 with prgN := 1#64 } : State).prgN ≠ 0#64 := by decide

theorem witness_PrgperiodWritesThePeriod : pg1.prgM ≠ 0#64 := by decide

/-- CIPHER_CFG values for the four clauses: r = 0; b = 0; b = 1; a key one byte past the end. -/
theorem witness_CipherCommandsCheckRoundsAndKey :
    Instr.keyexp ∈ [Instr.keyexp, .encblk, .decblk, .enccbc, .deccbc] ∧
    roundsOf { State.reset with cipherCfg := 0x1000#16 } = 0 ∧
    (roundsOf { State.reset with cipherCfg := 0x000C#16 } ≠ 0 ∧ keyLenOf { State.reset with cipherCfg := 0x000C#16 } = 0) ∧
    (roundsOf { State.reset with cipherCfg := 0x010C#16 } ≠ 0 ∧
      keyLenOf { State.reset with cipherCfg := 0x010C#16 } % 4 ≠ 0) ∧
    (roundsOf { State.reset with cipherCfg := 0x100C#16, keyAddr := 0xFFF1#64 } ≠ 0 ∧
      keyLenOf { State.reset with cipherCfg := 0x100C#16, keyAddr := 0xFFF1#64 } ≠ 0 ∧
      keyLenOf { State.reset with cipherCfg := 0x100C#16, keyAddr := 0xFFF1#64 } % 4 = 0 ∧
      65536 < ({ State.reset with cipherCfg := 0x100C#16, keyAddr := 0xFFF1#64 } : State).keyAddr.toNat +
        keyLenOf { State.reset with cipherCfg := 0x100C#16, keyAddr := 0xFFF1#64 }) := by decide

/-- The state after reset with a source and a destination. -/
def ranges (src len dst : Word64) : State := { State.reset with srcAddr := src, srcLen := len, dstAddr := dst }

/-- ER14; ER20; a destination that shares the source's last byte alone. -/
theorem witness_DigestChecksItsRanges :
    65536 < (ranges 0xFFFF#64 2#64 0#64).srcAddr.toNat + (ranges 0xFFFF#64 2#64 0#64).srcLen.toNat ∧
    ((ranges 0#64 3#64 0xFFF1#64).srcAddr.toNat + (ranges 0#64 3#64 0xFFF1#64).srcLen.toNat ≤ 65536 ∧
      65536 < (ranges 0#64 3#64 0xFFF1#64).dstAddr.toNat + 16) ∧
    ((ranges 0#64 3#64 2#64).srcAddr.toNat + (ranges 0#64 3#64 2#64).srcLen.toNat ≤ 65536 ∧
      (ranges 0#64 3#64 2#64).dstAddr.toNat + 16 ≤ 65536 ∧
      rangesMeet (ranges 0#64 3#64 2#64).dstAddr.toNat 16 (ranges 0#64 3#64 2#64).srcAddr.toNat
        (ranges 0#64 3#64 2#64).srcLen.toNat) :=
  ⟨by decide, by decide, by decide, by decide, 2, by decide⟩

/-- The key of `keyState` (0x40 to 0x43) and a destination. -/
def keyDst (dst : Word64) : State := { keyState with dstAddr := dst }

/-- The last places: 16 bytes from 0xFFF1 on pass the end, from 0x43 on share the key's last byte. -/
theorem witness_KeyexpChecksItsRanges :
    cipherLegal (keyDst 0xFFF1#64) ∧ cipherLegal (keyDst 0x43#64) ∧
    65536 < (keyDst 0xFFF1#64).dstAddr.toNat + 8 * (roundsOf (keyDst 0xFFF1#64) + 1) ∧
    (keyDst 0x43#64).dstAddr.toNat + 8 * (roundsOf (keyDst 0x43#64) + 1) ≤ 65536 ∧
    rangesMeet (keyDst 0x43#64).dstAddr.toNat (8 * (roundsOf (keyDst 0x43#64) + 1)) (keyDst 0x43#64).keyAddr.toNat
      (keyLenOf (keyDst 0x43#64)) :=
  ⟨witness_cipherLegal.1, witness_cipherLegal.1, by decide, by decide, 0x43, by decide⟩

/-- Legal cipher operands with the key at 0 to 0xF, and ranges. -/
def cbcRanges (src len dst : Word64) : State := { ranges src len dst with cipherCfg := 0x100C#16 }

/-- Those operands are legal: the premise of the two statements below. -/
theorem witness_cbcRanges_legal (src len dst : Word64) : cipherLegal (cbcRanges src len dst) :=
  ⟨show roundsOf (cbcState []) ≠ 0 by decide, show keyLenOf (cbcState []) ≠ 0 by decide,
    show keyLenOf (cbcState []) % 4 = 0 by decide,
    show (cbcState []).keyAddr.toNat + keyLenOf (cbcState []) ≤ 65536 by decide⟩

/-- One byte past the end at the source, at the destination; the last byte of the source met, that of the key met. -/
theorem witness_EnccbcChecksItsRanges :
    65536 < (cbcRanges 0xFFFF#64 2#64 0x100#64).srcAddr.toNat + (cbcRanges 0xFFFF#64 2#64 0x100#64).srcLen.toNat ∧
    ((cbcRanges 0x200#64 3#64 0xFFF1#64).srcAddr.toNat + (cbcRanges 0x200#64 3#64 0xFFF1#64).srcLen.toNat ≤ 65536 ∧
      65536 < (cbcRanges 0x200#64 3#64 0xFFF1#64).dstAddr.toNat +
        (16 + 8 * ((cbcRanges 0x200#64 3#64 0xFFF1#64).srcLen.toNat / 8))) ∧
    ((cbcRanges 0x200#64 3#64 0x202#64).srcAddr.toNat + (cbcRanges 0x200#64 3#64 0x202#64).srcLen.toNat ≤ 65536 ∧
      (cbcRanges 0x200#64 3#64 0x202#64).dstAddr.toNat +
        (16 + 8 * ((cbcRanges 0x200#64 3#64 0x202#64).srcLen.toNat / 8)) ≤ 65536 ∧
      rangesMeet (cbcRanges 0x200#64 3#64 0x202#64).dstAddr.toNat
        (16 + 8 * ((cbcRanges 0x200#64 3#64 0x202#64).srcLen.toNat / 8))
        (cbcRanges 0x200#64 3#64 0x202#64).srcAddr.toNat (cbcRanges 0x200#64 3#64 0x202#64).srcLen.toNat) ∧
    rangesMeet (cbcRanges 0x200#64 3#64 0xF#64).dstAddr.toNat
      (16 + 8 * ((cbcRanges 0x200#64 3#64 0xF#64).srcLen.toNat / 8))
      (cbcRanges 0x200#64 3#64 0xF#64).keyAddr.toNat (keyLenOf (cbcRanges 0x200#64 3#64 0xF#64)) :=
  ⟨by decide, ⟨by decide, by decide⟩, ⟨by decide, by decide, 0x202, by decide⟩, 0xF, by decide⟩

/-- The same for DECCBC: the source; a length of 12; the destination; the source met; the key met. -/
theorem witness_DeccbcChecksItsRanges :
    65536 < (cbcRanges 0xFFF9#64 8#64 0x100#64).srcAddr.toNat + (cbcRanges 0xFFF9#64 8#64 0x100#64).srcLen.toNat ∧
    ((cbcRanges 0x200#64 12#64 0x100#64).srcAddr.toNat + (cbcRanges 0x200#64 12#64 0x100#64).srcLen.toNat ≤ 65536 ∧
      (cbcRanges 0x200#64 12#64 0x100#64).srcLen.toNat % 8 ≠ 0) ∧
    ((cbcRanges 0x200#64 16#64 0xFFF9#64).srcAddr.toNat + (cbcRanges 0x200#64 16#64 0xFFF9#64).srcLen.toNat ≤ 65536 ∧
      (cbcRanges 0x200#64 16#64 0xFFF9#64).srcLen.toNat % 8 = 0 ∧
      65536 < (cbcRanges 0x200#64 16#64 0xFFF9#64).dstAddr.toNat +
        ((cbcRanges 0x200#64 16#64 0xFFF9#64).srcLen.toNat - 8)) ∧
    ((cbcRanges 0x200#64 16#64 0x20F#64).srcAddr.toNat + (cbcRanges 0x200#64 16#64 0x20F#64).srcLen.toNat ≤ 65536 ∧
      (cbcRanges 0x200#64 16#64 0x20F#64).srcLen.toNat % 8 = 0 ∧
      (cbcRanges 0x200#64 16#64 0x20F#64).dstAddr.toNat +
        ((cbcRanges 0x200#64 16#64 0x20F#64).srcLen.toNat - 8) ≤ 65536 ∧
      rangesMeet (cbcRanges 0x200#64 16#64 0x20F#64).dstAddr.toNat
        ((cbcRanges 0x200#64 16#64 0x20F#64).srcLen.toNat - 8)
        (cbcRanges 0x200#64 16#64 0x20F#64).srcAddr.toNat (cbcRanges 0x200#64 16#64 0x20F#64).srcLen.toNat) ∧
    rangesMeet (cbcRanges 0x200#64 16#64 0xF#64).dstAddr.toNat ((cbcRanges 0x200#64 16#64 0xF#64).srcLen.toNat - 8)
      (cbcRanges 0x200#64 16#64 0xF#64).keyAddr.toNat (keyLenOf (cbcRanges 0x200#64 16#64 0xF#64)) :=
  ⟨by decide, ⟨by decide, by decide⟩, ⟨by decide, by decide, by decide⟩,
    ⟨by decide, by decide, by decide, 0x20F, by decide⟩, 0xF, by decide⟩

theorem witness_PrgCommandsRefuseAZeroModulus : State.reset.prgM = 0#64 ∧ State.reset.lcgM = 0#64 := by decide

/-- What one command answers, for a command with no error. -/
def execOk (i : Instr) (s t : State) : Prop := exec i s = .next t ∧ s.errCode = 0#8 ∧ t.errCode = 0#8

/-- The same as a test. -/
def succeeds (i : Instr) (s : State) : Bool :=
  match exec i s with
  | .next t => s.errCode == 0#8 && t.errCode == 0#8
  | .fault _ => false
  | .refused _ => false

theorem execOk_of_succeeds (i : Instr) (s : State) (h : succeeds i s = true) : ∃ t, execOk i s t := by
  unfold succeeds at h
  split at h
  · rename_i t ht
    simp only [Bool.and_eq_true, beq_iff_eq] at h
    exact ⟨t, ht, h.1, h.2⟩
  · exact absurd h (by decide)
  · exact absurd h (by decide)

theorem witness_ResultIsWrittenByThePrgCommands :
    (∃ t, execOk .prggen pg1 t) ∧ (∃ t, execOk .prggenn pg1 t) ∧ (∃ t, execOk .prgperiod pg1 t) ∧
    (∃ t, execOk .prgload pg1 t) :=
  ⟨execOk_of_succeeds _ _ (by decide +kernel), execOk_of_succeeds _ _ (by decide +kernel),
    execOk_of_succeeds _ _ (by decide +kernel), execOk_of_succeeds _ _ (by decide +kernel)⟩

theorem witness_LiveGeneratorIsWrittenByItsCommands :
    (∃ t, execOk .prgload pg1 t) ∧ (∃ t, execOk .prggen pg1 t) ∧ (∃ t, execOk .prggenn pg1 t) ∧
    (∃ t, execOk .nop pg1 t) ∧
    isSoftReset ⟨0x008, 8, .write 1#64⟩ = false ∧
    (∃ t, step (hostState pg1 0x008 8 (.write 1#64)) = .next t ∧ t.ie = true) :=
  ⟨execOk_of_succeeds _ _ (by decide +kernel), execOk_of_succeeds _ _ (by decide +kernel),
    execOk_of_succeeds _ _ (by decide +kernel), execOk_of_succeeds _ _ (by decide +kernel), by decide +kernel,
    next_of_afterStep _ (fun t => t.ie) (by decide +kernel)⟩

/-- The four commands with an output succeed on these states. -/
theorem witness_OutLenCountsTheBytesWritten :
    Memory.wf abcState.buf ∧ Memory.wf keyState.buf ∧ Memory.wf cb2.buf ∧ Memory.wf (ctState 16).buf ∧
    (∃ t, execOk .digest abcState t) ∧ (∃ t, execOk .keyexp keyState t) ∧ (∃ t, execOk .enccbc cb2 t) ∧
    (∃ t, execOk .deccbc (ctState 16) t) ∧ (∃ t, execOk .encblk cb2 t) :=
  ⟨by decide, by decide, by decide, by decide, execOk_of_succeeds _ _ (by decide +kernel),
    execOk_of_succeeds _ _ (by decide +kernel), execOk_of_succeeds _ _ (by decide +kernel),
    execOk_of_succeeds _ _ (by decide +kernel), execOk_of_succeeds _ _ (by decide +kernel)⟩

theorem witness_DigestRegistersHoldTheLastDigest :
    Memory.wf abcState.buf ∧ (∃ t, execOk .digest abcState t) ∧ (∃ t, execOk .nop abcState t) :=
  ⟨by decide, execOk_of_succeeds _ _ (by decide +kernel), execOk_of_succeeds _ _ (by decide +kernel)⟩

theorem witness_RegisterReadsChangeNothing :
    (hostState pg1 0x080 8 .read).turns = .host ⟨regOffset .prgM, 8, .read⟩ :: [] := by decide

/-- The first and the last reserved offset. -/
theorem witness_ReservedOffsetsReadZeroAndIgnoreWrites : ∀ w ∈ [0x0D8, 0xFF8],
    0x0D8 ≤ w ∧ w ≤ 0xFF8 ∧ w % 8 = 0 ∧ (hostState pg1 w 8 .read).turns = .host ⟨w, 8, .read⟩ :: [] ∧
    (hostState pg1 w 8 (.write 7#64)).turns = .host ⟨w, 8, .write 7#64⟩ :: [] := by decide

theorem witness_IdleOperandWritesKeepTheFields :
    (hostState pg1 0x050 8 (.write 7#64)).phase = .idle ∧
    Reg.cipherCfg ∈ [Reg.srcAddr, .srcLen, .dstAddr, .keyAddr, .cipherCfg, .iv, .blkA, .blkB, .prgA, .prgC, .prgM,
      .prgSeed, .prgN] ∧
    (hostState pg1 0x050 8 (.write 7#64)).turns = .host ⟨regOffset .cipherCfg, 8, .write 7#64⟩ :: [] := by decide

theorem witness_StatusWritesClearByWritingOne :
    (hostState pg1 0x010 8 (.write 0xA#64)).turns = .host ⟨0x010, 8, .write 0xA#64⟩ :: [] := by decide

/-- PRGPERIOD executing, with one access next. -/
def busyAccess (off width : Nat) (k : AccessKind) : State := hostState (busyWith pg1 0x13#64) off width k

/-- CMD and the first and last operand register; a byte and the last eight bytes of the buffer; CTRL without and with the
reset bit, and STATUS, both busy and idle; the read-only registers and the reserved offsets at their ends. -/
theorem witness_WritesWhileBusyAreDropped :
    (busyAccess 0x018 8 (.write 7#64)).phase = .busy ∧
    (busyAccess 0x018 8 (.write 7#64)).turns = .host ⟨0x018, 8, .write 7#64⟩ :: [] ∧
    (∀ w ∈ [0x018, 0x030, 0x090], registerAccessOk ⟨w, 8, .write 7#64⟩ ∧ (w = 0x018 ∨ (0x030 ≤ w ∧ w ≤ 0x090))) ∧
    bufferAccessOk ⟨0x10000, 1, .write 7#64⟩ 0 ∧ bufferAccessOk ⟨0x1FFF8, 8, .write 7#64⟩ 0xFFF8 ∧
    (hostState pg1 0x008 8 (.write 1#64)).phase = .idle ∧
    (hostState pg1 0x008 8 (.write 1#64)).turns = .host ⟨0x008, 8, .write 1#64⟩ :: [] ∧
    registerAccessOk ⟨0x008, 8, .write 1#64⟩ ∧ (1#64).getLsbD 1 = false ∧ (2#64).getLsbD 1 = true ∧
    registerAccessOk ⟨0x010, 8, .write 0xA#64⟩ ∧
    (∀ w ∈ [0x000, 0x020, 0x028, 0x098, 0xFF8], registerAccessOk ⟨w, 8, .write 7#64⟩ ∧
      (w = 0x000 ∨ w = 0x020 ∨ w = 0x028 ∨ 0x098 ≤ w)) := by
  unfold registerAccessOk bufferAccessOk
  decide

theorem witness_BufferReadsWhileBusySetHaz :
    (busyAccess 0x1FFF8 8 .read).phase = .busy ∧
    (busyAccess 0x1FFF8 8 .read).turns = .host ⟨0x1FFF8, 8, .read⟩ :: [] ∧
    bufferAccessOk ⟨0x1FFF8, 8, .read⟩ 0xFFF8 := by
  unfold bufferAccessOk
  decide

theorem witness_WhatTheCommandWasGivenStays :
    (busyAccess 0x080 8 (.write 5#64)).phase = .busy ∧
    (busyAccess 0x080 8 (.write 5#64)).turns = .host ⟨0x080, 8, .write 5#64⟩ :: [] ∧
    isSoftReset ⟨0x080, 8, .write 5#64⟩ = false ∧
    ∃ t, step (busyAccess 0x080 8 (.write 5#64)) = .next t ∧ t.haz = true :=
  ⟨by decide, by decide, by decide +kernel, next_of_afterStep _ (fun t => t.haz) (by decide +kernel)⟩

/-- Program P5: STATUS read, PRG_M written, STATUS read, PRG_M read; then the bus error of SY13. -/
def p5Accesses : List Access :=
  [⟨0x010, 8, .read⟩, ⟨0x080, 8, .write 5#64⟩, ⟨0x010, 8, .read⟩, ⟨0x080, 8, .read⟩, ⟨0x01000, 8, .read⟩]

theorem witness_ResultsDoNotDependOnTheInterleaving :
    (busyWith pg1 0x13#64).phase = .busy ∧ (∀ a ∈ p5Accesses, isSoftReset a = false) ∧
    ({ busyWith pg1 0x13#64 with turns := p5Accesses.map Turn.host ++ [.engine] } : State).turns =
      p5Accesses.map Turn.host ++ .engine :: [] := by decide

/-- An idle machine; DIGEST, NOP and an undefined opcode executing. -/
theorem witness_SoftResetClearsTheRegisters :
    (∀ s ∈ [abcState, busyWith abcState 0x01#64, busyWith abcState 0x00#64, busyWith abcState 0xFF#64],
      Memory.wf (hostState s 0x008 8 (.write 3#64)).buf ∧
      (hostState s 0x008 8 (.write 3#64)).turns = .host ⟨0x008, 8, .write 3#64⟩ :: []) ∧ (3#64).getLsbD 1 = true ∧
    (hostState abcState 0x008 8 (.write 3#64)).phase = .idle ∧
    decode (busyWith abcState 0x01#64).cmd = .ok .digest ∧
    (decode (busyWith abcState 0x00#64).cmd = .ok .nop ∧
      Instr.nop ∈ [Instr.nop, .encblk, .decblk, .prgload, .prggen, .prggenn, .prgperiod]) ∧
    decode (busyWith abcState 0xFF#64).cmd = .error .undefinedOpcode := by decide

theorem witness_PowerOnResetClearsTheRegisters :
    ({ abcState with turns := [.powerOn] } : State).turns = .powerOn :: [] := by decide

/-- A byte at 0 and eight bytes at the end. -/
theorem witness_HostBufferWritesStoreTheirBytes :
    Memory.wf abcState.buf ∧ abcState.phase = .idle ∧
    (hostState abcState 0x10000 1 (.write 7#64)).turns = .host ⟨0x10000, 1, .write 7#64⟩ :: [] ∧
    bufferAccessOk ⟨0x10000, 1, .write 7#64⟩ 0 ∧ bufferAccessOk ⟨0x1FFF8, 8, .write 7#64⟩ 0xFFF8 := by
  unfold bufferAccessOk
  decide

/-- A read of the last byte, and of the last eight; two bytes inside eight (SY14). -/
theorem witness_BufferWriteThenNarrowerRead :
    (hostState abcState 0x1FFFF 1 .read).phase = .idle ∧
    (hostState abcState 0x1FFFF 1 .read).turns = .host ⟨0x1FFFF, 1, .read⟩ :: [] ∧
    bufferAccessOk ⟨0x1FFFF, 1, .read⟩ 0xFFFF ∧ bufferAccessOk ⟨0x1FFF8, 8, .read⟩ 0xFFF8 ∧
    Memory.wf abcState.buf ∧ abcState.phase = .idle ∧
    bufferAccessOk ⟨0x10000 + 0x10, 8, .write 0x0807060504030201#64⟩ 0x10 ∧
    bufferAccessOk ⟨0x10000 + 0x12, 2, .read⟩ 0x12 ∧ 0x10 ≤ 0x12 ∧ 0x12 + 2 ≤ 0x10 + 8 ∧
    ({ abcState with turns := [.host ⟨0x10000 + 0x10, 8, .write 0x0807060504030201#64⟩,
      .host ⟨0x10000 + 0x12, 2, .read⟩] } : State).turns =
      .host ⟨0x10000 + 0x10, 8, .write 0x0807060504030201#64⟩ :: .host ⟨0x10000 + 0x12, 2, .read⟩ :: [] := by
  unfold bufferAccessOk
  decide

/-- Three bytes from an odd offset, and three up to the buffer's end. -/
theorem witness_WrbufStoresTheByteSequence : ∀ k ∈ [1, 65533],
    Memory.wf State.reset.buf ∧ State.reset.phase = .idle ∧ k + [1#8, 2#8, 3#8].length ≤ 65536 ∧
    ({ State.reset with turns := scriptWrbuf k [1#8, 2#8, 3#8] ++ [] } : State).turns =
      scriptWrbuf k [1#8, 2#8, 3#8] ++ [] := by decide

/-- The accesses of SY11 to SY13 and the first offset outside the window; a legal access of each window. -/
theorem witness_BusErrorsAreExactlyTheRefusedAccesses :
    (hostState abcState 0x20000 8 .read).turns = .host ⟨0x20000, 8, .read⟩ :: [] ∧ 0x20000 ≤ 0x20000 ∧
    (0x1000 ≤ 0x1000 ∧ 0x1000 < 0x10000) ∧ (0x1000 ≤ 0xFFFF ∧ 0xFFFF < 0x10000) ∧
    (0x030 < 0x1000 ∧ (4 ≠ 8 ∨ 0x030 % 8 ≠ 0)) ∧ (0xFFC < 0x1000 ∧ (8 ≠ 8 ∨ 0xFFC % 8 ≠ 0)) ∧
    (0x10000 ≤ 0x10002 ∧ 0x10002 < 0x20000 ∧ (4 ∉ [1, 2, 4, 8] ∨ 0x10002 % 4 ≠ 0)) ∧
    (0x10000 ≤ 0x1FFFF ∧ 0x1FFFF < 0x20000 ∧ (3 ∉ [1, 2, 4, 8] ∨ 0x1FFFF % 3 ≠ 0)) ∧
    registerAccessOk ⟨0xFF8, 8, .read⟩ ∧ bufferAccessOk ⟨0x1FFFF, 1, .read⟩ 0xFFFF := by
  unfold registerAccessOk bufferAccessOk
  decide

/-- A BUSY state with a bus error next; a list of accesses with one in it, with the engine's turn and without. -/
theorem witness_EveryHostAccessAndEveryCommandCompletes :
    (busyAccess 0x01000 8 .read).turns = .host ⟨0x01000, 8, .read⟩ :: [] ∧ isBusError ⟨0x01000, 8, .read⟩ = true ∧
    isBusError ⟨0x010, 8, .read⟩ = false ∧
    (busyWith pg1 0x13#64).phase = .busy ∧ (∀ a ∈ p5Accesses, isSoftReset a = false) ∧
    ({ busyWith pg1 0x13#64 with turns := p5Accesses.map Turn.host ++ [.engine] } : State).turns =
      p5Accesses.map Turn.host ++ .engine :: [] ∧
    ({ busyWith pg1 0x13#64 with turns := p5Accesses.map Turn.host } : State).turns = p5Accesses.map Turn.host ∧
    ([] : List Turn) = [] := by decide

/-- A command, a status read and a bus error while it executes, its completion, a buffer read after it. -/
theorem witness_DutifulHostsSetNoHazard :
    State.reset.haz = false ∧
    safeTurns 5 { State.reset with
      turns := [scriptCmd .nop, scriptRd .status, .host ⟨0x01000, 8, .read⟩, .engine, scriptRb 8 0] } = true := by
  decide +kernel

theorem witness_KeyFoldDropsTheLastByte : ∀ key ∈ [[1#8, 2#8, 3#8, 4#8], List.replicate 8 9#8],
    key ≠ [] ∧ key.length % 4 = 0 := by decide

theorem witness_LastKeyByteHasNoEffect : ([1#8, 2#8, 3#8].length + 1) % 4 = 0 := by decide

theorem witness_DecblkAfterEncblkRestoresTheBlock : cipherLegal keyState := witness_cipherLegal.1

/-- ENCCBC of CB2, then DECCBC of its output to 0x400. -/
theorem witness_DeccbcAfterEnccbcRecoversThePlaintext :
    (Memory.wf cb2.buf ∧ cipherLegal cb2 ∧ cb2.srcAddr.toNat + cb2.srcLen.toNat ≤ 65536 ∧
      cb2.dstAddr.toNat + (16 + 8 * (cb2.srcLen.toNat / 8)) ≤ 65536 ∧
      ¬ rangesMeet cb2.dstAddr.toNat (16 + 8 * (cb2.srcLen.toNat / 8)) cb2.srcAddr.toNat cb2.srcLen.toNat ∧
      ¬ rangesMeet cb2.dstAddr.toNat (16 + 8 * (cb2.srcLen.toNat / 8)) cb2.keyAddr.toNat (keyLenOf cb2)) ∧
    (0x400#64).toNat + 8 * (cb2.srcLen.toNat / 8 + 1) ≤ 65536 ∧
    ¬ rangesMeet (0x400#64).toNat (8 * (cb2.srcLen.toNat / 8 + 1)) cb2.dstAddr.toNat (16 + 8 * (cb2.srcLen.toNat / 8)) ∧
    ¬ rangesMeet (0x400#64).toNat (8 * (cb2.srcLen.toNat / 8 + 1)) cb2.keyAddr.toNat (keyLenOf cb2) :=
  ⟨witness_EnccbcWritesTheCiphertext, by decide, not_rangesMeet _ _ _ _ (by decide), not_rangesMeet _ _ _ _ (by decide)⟩

/-- The least and the greatest modulus. -/
theorem witness_GeneratorStepIsExact : (1#64 : Word64) ≠ 0#64 ∧ (0xFFFFFFFFFFFFFFFF#64 : Word64) ≠ 0#64 := by decide

theorem witness_PeriodIsTheCycleLength : (1#64 : Word64) ≠ 0#64 ∧ (16#64 : Word64) ≠ 0#64 := by decide

/-- A busy state that meets the invariant, and a step from it. -/
theorem witness_EveryStepKeepsTheInvariant :
    StateInv (busyWith pg1 0x13#64) ∧ ∃ t, step (busyWith pg1 0x13#64) = .next t ∧ (t.result == 16#64) = true :=
  ⟨⟨by decide, by decide, by decide, by decide, by decide, by decide⟩, next_of_afterStep _ _ (by decide +kernel)⟩

end Sys2Proof.Tests
end

section
/-! PROOFS. The statements about the registers (10_state.md): what host accesses and completions can do to them, said once
each, then the statements settled. -/

namespace Sys2Proof.Machine

open Sys2Proof.Safety

/-! ## Registers at reset and registers the host cannot write -/

/-- At the state after reset every register reads its reset value (10_state.md R21; 70_reset_and_hazards.md R280). -/
theorem readReg_reset (r : Reg) : readReg r State.reset = regResetValue r := by
  cases r <;> rfl

/-- A host write to a read-only register is ignored (43_system.md R233). -/
theorem writeReg_readOnly (r : Reg) (v : Word64) (s : State) (hw : r ∉ [Reg.ctrl, .status, .cmd])
    (ho : isOperandReg r = false) : writeReg r v s = s := by
  cases r with
  | ctrl | status | cmd => simp at hw
  | id | err | errInfo | lcgA | lcgC | lcgM | lcgS | result | outLen | digestLo | digestHi => rfl
  | srcAddr | srcLen | dstAddr | keyAddr | cipherCfg | iv | blkA | blkB | prgA | prgC | prgM | prgSeed | prgN => cases ho

/-- The registers that hold the commands' results: the live generator, RESULT, OUT_LEN and the digest
(10_state.md R41 to R48). -/
def resultRegs : List Reg := [.lcgA, .lcgC, .lcgM, .lcgS, .result, .outLen, .digestLo, .digestHi]

/-- Host writes to a result register are ignored (10_state.md R41 to R48). -/
theorem writeReg_resultRegs (r : Reg) (h : r ∈ resultRegs) (v : Word64) (s : State) : writeReg r v s = s := by
  have hro : ∀ q ∈ resultRegs, q ∉ [Reg.ctrl, .status, .cmd] ∧ isOperandReg q = false := by decide
  obtain ⟨hw, ho⟩ := hro r h
  exact writeReg_readOnly r v s hw ho

/-- A result register is reset to 0 (10_state.md R41 to R48). -/
theorem regResetValue_resultRegs : ∀ r ∈ resultRegs, regResetValue r = 0#64 := by decide

/-! ## What a host access other than a soft reset does -/

/-- `s` with what only the host's side of CORE shows, IE, HAZ and the model's own answer and draw count, as in `u`. -/
def State.withHostSide (s u : State) : State := { s with ie := u.ie, haz := u.haz, resp := u.resp, draws := u.draws }

/-- `s` with everything a host access can change while a command executes, soft reset apart, as in `u`: the host's side
and DONE, which a STATUS write clears in either phase (10_state.md R24; 70_reset_and_hazards.md R287 to R289). -/
def State.hostTouched (s u : State) : State := { s.withHostSide u with done := u.done }

@[simp] theorem hostTouched_self (s : State) : s.hostTouched s = s := rfl

@[simp] theorem hostTouched_phase (s u : State) : (s.hostTouched u).phase = s.phase := rfl

@[simp] theorem hostTouched_cmd (s u : State) : (s.hostTouched u).cmd = s.cmd := rfl

@[simp] theorem latchedOf_hostTouched (s u : State) : latchedOf (s.hostTouched u) = latchedOf s := rfl

theorem hostTouched_respond (s u : State) (r : Response) :
    (s.hostTouched u).respond r = s.hostTouched ((s.hostTouched u).respond r) := rfl

theorem writeStatus_hostTouched (s : State) (v : Word64) : s.writeStatus v = s.hostTouched (s.writeStatus v) := by
  rw [writeStatus_eq]
  rfl

/-- A buffer read changes the host's side alone: it answers, and while BUSY it sets HAZ and draws a free value
(43_system.md R234; 70_reset_and_hazards.md R288). -/
theorem hostBufRead_hostTouched (k n : Nat) (s : State) : hostBufRead k n s = s.hostTouched (hostBufRead k n s) := by
  unfold hostBufRead
  split <;> rfl

/-- A soft reset is asked for exactly where a register write of CTRL has bit 1 set (10_state.md R23). -/
theorem isSoftReset_register_write (a : Access) (w : Nat) (v : Word64) (ht : busTarget a.off a.width = .register w)
    (hk : a.kind = .write v) : isSoftReset a = (regAt w == some .ctrl && v.getLsbD 1) := by
  simp only [isSoftReset, ht, hk]

/-- A register write that asks for no soft reset (43_system.md R233): in IDLE it may accept a command word or store an
operand; anything else it does stays on the host's side. -/
theorem hostRegWrite_no_reset (w : Nat) (v : Word64) (s : State) (h : (regAt w == some .ctrl && v.getLsbD 1) = false) :
    (∃ u, hostRegWrite w v s = s.hostTouched u) ∨
    (s.phase = .idle ∧ hostRegWrite w v s = s.accept v) ∨
    (∃ r, s.phase = .idle ∧ hostRegWrite w v s = setOperand r v s) := by
  unfold hostRegWrite
  cases hr : regAt w with
  | none => exact .inl ⟨s, rfl⟩
  | some r =>
    dsimp only
    rcases writeReg_cases r v s with ⟨rfl, hv, -⟩ | ⟨-, -, heq⟩ | ⟨-, heq⟩ | ⟨-, hp, heq⟩ | ⟨-, hp, heq⟩ | ⟨-, -, heq⟩ |
        ⟨-, -, -, -, heq⟩
    · rw [hr, hv] at h
      exact absurd h (by decide)
    · exact .inl ⟨s.writeIe v, heq⟩
    · exact .inl ⟨s.writeStatus v, heq.trans (writeStatus_hostTouched s v)⟩
    · exact .inr (.inl ⟨hp, heq⟩)
    · exact .inr (.inr ⟨r, hp, heq⟩)
    · exact .inl ⟨s.hazard, heq⟩
    · exact .inl ⟨s, heq⟩

/-- A host access that asks for no soft reset stays on the host's side, or it is one of the three writes CORE takes in
IDLE: a command word, an operand, buffer bytes (43_system.md R231 to R235; 70_reset_and_hazards.md R287 to R289). -/
theorem hostAccess_no_reset (a : Access) (s : State) (h : isSoftReset a = false) :
    (∃ u, hostAccess a s = .next (s.hostTouched u)) ∨
    (s.phase = .idle ∧ ∃ v, hostAccess a s = .next ((s.accept v).respond .written)) ∨
    (s.phase = .idle ∧ ∃ r v, hostAccess a s = .next ((setOperand r v s).respond .written)) ∨
    (s.phase = .idle ∧ ∃ m, hostAccess a s = .next (({ s with buf := m } : State).respond .written)) := by
  rcases hostAccess_cases a s with ⟨f, -, heq⟩ | ⟨-, heq⟩ | ⟨w, -, -, heq⟩ | ⟨w, v, ht, hk, heq⟩ | ⟨k, -, -, heq⟩ |
      ⟨k, v, -, -, heq⟩
  · exact .inl ⟨s.respond (.error f), heq⟩
  · exact .inl ⟨s.respond .elsewhere, heq⟩
  · exact .inl ⟨s.respond (.data 8 (hostRegRead w s)), heq⟩
  · rw [isSoftReset_register_write a w v ht hk] at h
    rw [heq]
    rcases hostRegWrite_no_reset w v s h with ⟨u, hu⟩ | ⟨hp, hu⟩ | ⟨r, hp, hu⟩ <;> rw [hu]
    · exact .inl ⟨_, congrArg _ (hostTouched_respond s u .written)⟩
    · exact .inr (.inl ⟨hp, v, rfl⟩)
    · exact .inr (.inr (.inl ⟨hp, r, v, rfl⟩))
  · exact .inl ⟨hostBufRead k a.width s, heq.trans (congrArg _ (hostBufRead_hostTouched k a.width s))⟩
  · rw [heq]
    unfold hostBufWrite
    cases hp : s.phase with
    | busy => exact .inl ⟨s.hazard.respond .written, rfl⟩
    | idle => exact .inr (.inr (.inr ⟨rfl, _, rfl⟩))

/-- While a command executes, a host access other than a soft reset stays on the host's side
(70_reset_and_hazards.md R287 to R289). -/
theorem hostAccess_busy (a : Access) (s : State) (hp : s.phase = .busy) (h : isSoftReset a = false) :
    ∃ u, hostAccess a s = .next (s.hostTouched u) := by
  rcases hostAccess_no_reset a s h with hu | ⟨hi, -⟩ | ⟨hi, -⟩ | ⟨hi, -⟩
  · exact hu
  all_goals simp [hp] at hi

/-- The live generator's registers (10_state.md R41 to R44). -/
def liveGenerator (s : State) : Word64 × Word64 × Word64 × Word64 := (s.lcgA, s.lcgC, s.lcgM, s.lcgS)

@[simp] theorem liveGenerator_setOperand (r : Reg) (v : Word64) (s : State) :
    liveGenerator (setOperand r v s) = liveGenerator s := by
  cases r <;> rfl

/-- No host access but a soft reset changes the live generator, in either phase (10_state.md R41 to R44). -/
theorem liveGenerator_hostAccess (a : Access) (s t : State) (h : isSoftReset a = false)
    (ht : hostAccess a s = .next t) : liveGenerator t = liveGenerator s := by
  rcases hostAccess_no_reset a s h with ⟨u, heq⟩ | ⟨-, v, heq⟩ | ⟨-, r, v, heq⟩ | ⟨-, m, heq⟩
  all_goals obtain rfl := Host.Outcome.next.inj (heq.symm.trans ht)
  · rfl
  · rfl
  · exact liveGenerator_setOperand r v s
  · rfl

/-! ## Completions: what a successful command and a failed one leave -/

/-- A completion that leaves no error code is a success: its tests passed and its effect is all it did
(60_exceptions.md R250). -/
theorem exec_clean (i : Instr) (s t : State) (h : exec i s = .next t) (ht : t.errCode = 0#8) :
    firstError (commandChecks i s) = none ∧ t = (commandEffect i s).finish := by
  rcases exec_next i s t h with ⟨e, -, rfl⟩ | hs
  · exact absurd ht (causeCode_ne_zero e.cause)
  · exact hs

/-- What neither an error report nor the command's effect touches is as before the command, whatever its outcome
(60_exceptions.md R248, R250). -/
theorem exec_keeps {α : Type} (f : State → α) (i : Instr) (s t : State) (h : exec i s = .next t)
    (herr : ∀ e, f (errorCompletion e s) = f s) (heff : f (commandEffect i s).finish = f s) : f t = f s := by
  rcases exec_next i s t h with ⟨e, -, rfl⟩ | ⟨-, rfl⟩
  · exact herr e
  · exact heff

/-- After a success every one of the command's tests has passed (60_exceptions.md R246). -/
theorem check_passes (i : Instr) (s : State) (c : Check) (h : firstError (commandChecks i s) = none)
    (hc : c ∈ commandChecks i s) : c.fails = false :=
  (firstError_eq_none _).1 h c hc

/-- PRGLOAD's one test passes exactly on a staged modulus that is not 0 (42_prg.md R211). -/
theorem prgload_passes (s : State) : firstError (commandChecks .prgload s) = none ↔ s.prgM ≠ 0#64 := by
  simp [commandChecks, modulusCheck]

/-! ## Which registers the commands' effects write -/

/-- Only PRGGEN, PRGGENN and PRGPERIOD write RESULT (10_state.md R45). -/
theorem commandEffect_result (i : Instr) (s : State) (h1 : i ≠ .prggen) (h2 : i ≠ .prggenn) (h3 : i ≠ .prgperiod) :
    (commandEffect i s).result = s.result := by
  cases i with
  | prggen => exact absurd rfl h1
  | prggenn => exact absurd rfl h2
  | prgperiod => exact absurd rfl h3
  | _ => rfl

/-- Only PRGLOAD writes the generator's parameters (10_state.md R41 to R43). -/
theorem commandEffect_lcgParameters (i : Instr) (s : State) (h : i ≠ .prgload) :
    ((commandEffect i s).lcgA, (commandEffect i s).lcgC, (commandEffect i s).lcgM) = (s.lcgA, s.lcgC, s.lcgM) := by
  cases i with
  | prgload => exact absurd rfl h
  | _ => rfl

/-- Only PRGLOAD, PRGGEN and PRGGENN write LCG_S (10_state.md R44). -/
theorem commandEffect_lcgS (i : Instr) (s : State) (h1 : i ≠ .prgload) (h2 : i ≠ .prggen) (h3 : i ≠ .prggenn) :
    (commandEffect i s).lcgS = s.lcgS := by
  cases i with
  | prgload => exact absurd rfl h1
  | prggen => exact absurd rfl h2
  | prggenn => exact absurd rfl h3
  | _ => rfl

/-- Only DIGEST writes the digest registers (10_state.md R47, R48). -/
theorem commandEffect_digestRegs (i : Instr) (s : State) (h : i ≠ .digest) :
    ((commandEffect i s).digestLo, (commandEffect i s).digestHi) = (s.digestLo, s.digestHi) := by
  cases i with
  | digest => exact absurd rfl h
  | _ => rfl

/-! ## Outputs in the buffer -/

/-- The bytes a command writes at DST_ADDR when no test fails, none for a command that writes no buffer byte
(10_state.md R46). -/
def outputBytes (i : Instr) (s : State) : List Byte :=
  match i with
  | .digest => digest16 (srcBytes s)
  | .keyexp => (stateSchedule s).flatMap bytes32
  | .enccbc => encChain (stateSchedule s) (cfgRounds s) s.iv (srcBytes s)
  | .deccbc => decChain (stateSchedule s) (cfgRounds s) (srcBytes s)
  | .nop | .encblk | .decblk | .prgload | .prggen | .prggenn | .prgperiod => []

/-- Every command's effect on the buffer is to write its output bytes at DST_ADDR. -/
theorem commandEffect_buf (i : Instr) (s : State) :
    (commandEffect i s).buf = bufWrite s.buf s.dstAddr.toNat (outputBytes i s) := by
  cases i <;> rfl

/-- The commands that write the buffer write OUT_LEN, with their output length (10_state.md R46). -/
theorem commandEffect_outLen (i : Instr) (s : State) (h : i ∈ [Instr.digest, .keyexp, .enccbc, .deccbc]) :
    (commandEffect i s).outLen = BitVec.ofNat 64 (outputLength i s) := by
  simp only [List.mem_cons, List.not_mem_nil, or_false] at h
  rcases h with rfl | rfl | rfl | rfl <;> rfl

/-- The other commands write neither OUT_LEN nor the buffer (10_state.md R46). -/
theorem commandEffect_outLen_buf (i : Instr) (s : State) (h : i ∉ [Instr.digest, .keyexp, .enccbc, .deccbc]) :
    ((commandEffect i s).outLen, (commandEffect i s).buf) = (s.outLen, s.buf) := by
  cases i with
  | digest | keyexp | enccbc | deccbc => simp at h
  | _ => rfl

/-- A command that passes its tests writes as many bytes as its output length says; DECCBC needs its source to be whole
blocks for that (10_state.md R46; 41_cipher.md R174). -/
theorem outputBytes_length (i : Instr) (s : State) (h : firstError (commandChecks i s) = none) :
    (outputBytes i s).length = outputLength i s := by
  cases i with
  | digest => simp [outputBytes, outputLength]
  | keyexp =>
    simp only [outputBytes, outputLength, stateSchedule]
    rw [flatMap_length_const _ 4 bytes32_length, expandKey_length]
  | enccbc => simp [outputBytes, outputLength, srcBytes]
  | deccbc =>
    have hl := check_passes .deccbc s (ctLenCheck s) h (by simp [commandChecks])
    have hmod : (srcBytes s).length % 8 = 0 := by simpa [ctLenCheck, srcBytes] using hl
    simp only [outputBytes, outputLength]
    rw [decChain_length _ _ _ hmod, srcBytes, bufRead_length]
  | nop | encblk | decblk | prgload | prggen | prggenn | prgperiod => rfl

/-- The output of a command that passes its tests lies inside the buffer (60_exceptions.md R242). -/
theorem output_inRange (i : Instr) (s : State) (h : firstError (commandChecks i s) = none)
    (hi : i ∈ [Instr.digest, .keyexp, .enccbc, .deccbc]) : s.dstAddr.toNat + outputLength i s ≤ 65536 := by
  have hmem : dstRangeCheck (outputLength i s) s ∈ commandChecks i s := by
    simp only [List.mem_cons, List.not_mem_nil, or_false] at hi
    rcases hi with rfl | rfl | rfl | rfl <;> simp [commandChecks, outputLength]
  simpa [dstRangeCheck, dstOff] using check_passes i s _ h hmem

/-- A success of a command that writes the buffer leaves its output length in OUT_LEN (10_state.md R46). -/
theorem exec_clean_outLen (i : Instr) (s t : State) (h : exec i s = .next t) (ht : t.errCode = 0#8)
    (hi : i ∈ [Instr.digest, .keyexp, .enccbc, .deccbc]) : t.outLen.toNat = outputLength i s := by
  obtain ⟨hpass, rfl⟩ := exec_clean i s t h ht
  have hle := output_inRange i s hpass hi
  rw [State.finish_outLen, commandEffect_outLen i s hi, BitVec.toNat_ofNat]
  omega

/-- A success leaves its output bytes at DST_ADDR and every other byte as it was (10_state.md R46). -/
theorem exec_clean_bufferHolds (i : Instr) (s t : State) (hwf : Memory.wf s.buf) (h : exec i s = .next t)
    (ht : t.errCode = 0#8) (hi : i ∈ [Instr.digest, .keyexp, .enccbc, .deccbc]) :
    bufferHolds t.buf s.buf s.dstAddr.toNat (outputBytes i s) := by
  obtain ⟨hpass, rfl⟩ := exec_clean i s t h ht
  rw [State.finish_buf, commandEffect_buf]
  exact bufferHolds_bufWrite s.buf hwf _ _ (by rw [outputBytes_length i s hpass]; exact output_inRange i s hpass hi)

/-- A read of two ranges, one after the other, is a read of the first and a read of the second (20_memory.md R81). -/
theorem bufRead_add (m : Memory) (off n k : Nat) : bufRead m off (n + k) = bufRead m off n ++ bufRead m (off + n) k := by
  simp [bufRead, List.range_add, Nat.add_assoc]

/-- Where the buffer holds `xs ++ ys`, its first part reads as `xs` and what follows as `ys`. -/
theorem bufRead_of_bufferHolds_append (t m : Memory) (a : Nat) (xs ys : List Byte) (h : bufferHolds t m a (xs ++ ys)) :
    bufRead t a xs.length = xs ∧ bufRead t (a + xs.length) ys.length = ys := by
  have hr := bufRead_of_bufferHolds t m a _ h
  rw [List.length_append, bufRead_add] at hr
  exact List.append_inj hr (by simp)

/-- DIGEST's effect on the digest registers: the two halves of the digest (10_state.md R47, R48). -/
theorem digestEffect_halves (s : State) :
    (digestEffect s).digestLo = le64 ((digest16 (sourceOf s)).take 8) ∧
    (digestEffect s).digestHi = le64 ((digest16 (sourceOf s)).drop 8) := by
  refine ⟨rfl, congrArg le64 ?_⟩
  exact List.take_of_length_le (by simp)

/-! ## A completion after host accesses -/

/-- A command's tests read nothing that a host access can change while it executes (10_state.md R55). -/
@[simp] theorem commandChecks_hostTouched (i : Instr) (s u : State) :
    commandChecks i (s.hostTouched u) = commandChecks i s := by
  cases i <;> rfl

/-- A command's effect neither reads nor writes what a host access can change while it executes (10_state.md R55). -/
theorem commandEffect_hostTouched (i : Instr) (s u : State) :
    commandEffect i (s.hostTouched u) = (commandEffect i s).hostTouched u := by
  cases i <;> rfl

/-- The end of a command sets DONE whatever it was, so of the accesses before it only the host's side is left. -/
theorem finish_hostTouched (s u : State) : (s.hostTouched u).finish = s.finish.withHostSide u := rfl

theorem errorCompletion_hostTouched (e : Raise) (s u : State) :
    errorCompletion e (s.hostTouched u) = (errorCompletion e s).withHostSide u := rfl

/-- A decoded command's completion after host accesses is its completion without them, but for the host's side. -/
theorem exec_hostTouched (i : Instr) (s t u : State) (h : exec i s = .next t) :
    exec i (s.hostTouched u) = .next (t.withHostSide u) := by
  rw [exec_eq, completeCommand, commandChecks_hostTouched]
  rcases exec_next i s t h with ⟨e, he, rfl⟩ | ⟨he, rfl⟩ <;> rw [he]
  · exact congrArg Host.Outcome.next (errorCompletion_hostTouched e s u)
  · exact congrArg Host.Outcome.next ((congrArg State.finish (commandEffect_hostTouched i s u)).trans (finish_hostTouched _ u))

/-- The engine's turn after host accesses, whatever word it completes, is its turn without them but for the host's side
(10_state.md R55; 60_exceptions.md R252). -/
theorem engineTurn_hostTouched (s u : State) (hp : s.phase = .busy) :
    ∃ t, engineTurn s = .next t ∧ engineTurn (s.hostTouched u) = .next (t.withHostSide u) := by
  simp only [engineTurn, hostTouched_phase, hp, fetchCommand, hostTouched_cmd]
  cases decode s.cmd with
  | error e => exact ⟨_, rfl, congrArg Host.Outcome.next (errorCompletion_hostTouched _ s u)⟩
  | ok i =>
    rcases exec_cases i s with ⟨e, -, h⟩ | ⟨-, h⟩ <;> exact ⟨_, h, exec_hostTouched i s _ u h⟩

/-- Host accesses at the head of the list of turns, no soft reset among them, run through while a command executes and
leave only what the host can touch (70_reset_and_hazards.md R287 to R289, R293). -/
theorem run_hostAccesses_busy (accs : List Access) (n : Nat) (s : State) (rest : List Turn) (hp : s.phase = .busy)
    (hsafe : ∀ a ∈ accs, isSoftReset a = false) (hturns : s.turns = accs.map Turn.host ++ rest) :
    ∃ u, Host.Core.run core (accs.length + n) s =
      Host.Core.run core n (({ s with turns := rest } : State).hostTouched u) := by
  induction accs generalizing s with
  | nil =>
    obtain rfl : s.turns = rest := hturns
    exact ⟨s, by simp⟩
  | cons a accs ih =>
    have hstep := step_host s a (accs.map Turn.host ++ rest) hturns
    obtain ⟨u, hu⟩ := hostAccess_busy a { s with turns := accs.map Turn.host ++ rest } hp (hsafe a (by simp))
    obtain ⟨v, hv⟩ := ih (({ s with turns := accs.map Turn.host ++ rest } : State).hostTouched u) hp
      (fun b hb => hsafe b (by simp [hb])) rfl
    refine ⟨v, ?_⟩
    rw [List.length_cons, show accs.length + 1 + n = accs.length + n + 1 by omega, run_next (hstep.trans hu), hv]
    rfl

end Sys2Proof.Machine

/-! ## The statements -/

namespace Sys2Proof.Proofs

open Sys2Proof.Machine Sys2Proof.Safety

/-- Settles O30: the map row by row, and `readReg_reset`. -/
theorem registerMapAndResetValues : Obligations.RegisterMapAndResetValues := by
  unfold Obligations.RegisterMapAndResetValues
  exact ⟨rfl, readReg_reset⟩

/-- Settles O31: IRQ's two factors are the bits of STATUS and CTRL; every reset clears both. -/
theorem irqIsDoneAndEnable : Obligations.IrqIsDoneAndEnable := by
  unfold Obligations.IrqIsDoneAndEnable
  refine ⟨fun s => ?_, rfl, fun s => ⟨rfl, rfl⟩⟩
  simp only [readReg, statusWord_getLsbD, ctrlWord_getLsbD]
  simp [irq]

/-- Settles O32: each bit of STATUS is the flag in its place; CODE is the low byte of ERR. -/
theorem statusReadsItsFourBits : Obligations.StatusReadsItsFourBits := by
  unfold Obligations.StatusReadsItsFourBits
  intro s
  have herr : (errWord s).toNat % 256 ≠ 0 ↔ s.errCode ≠ 0#8 := by
    have hlt := s.errCode.isLt
    rw [errWord_toNat, Ne, Ne, ← BitVec.toNat_inj, BitVec.toNat_ofNat]
    omega
  simp only [readReg, statusWord_getLsbD, herr]
  refine ⟨by simp [busyFlag], by simp, by simp [errFlag], by simp, fun k hk => ?_, errWord_toNat s⟩
  simp [show k ≠ 0 by omega, show k ≠ 1 by omega, show k ≠ 2 by omega, show k ≠ 3 by omega]

/-- Settles O34: no register stands at a reserved offset, so a read answers 0 and a write is ignored. -/
theorem reservedOffsetsReadZeroAndIgnoreWrites : Obligations.ReservedOffsetsReadZeroAndIgnoreWrites := by
  unfold Obligations.ReservedOffsetsReadZeroAndIgnoreWrites
  intro s w ts hlo hhi h8
  have hnone := regAt_reserved w hlo
  refine ⟨hnone, fun hturns => ?_, fun v hturns => ?_⟩
  · rw [step_host s _ ts hturns, hostAccess_read w _ (by omega) h8, hostRegRead, hnone]
    rfl
  · rw [step_host s _ ts hturns, hostAccess_write w v _ (by omega) h8, hostRegWrite, hnone]
    rfl

/-- Settles O26: RESULT is written by the effects of three commands and by no error completion. -/
theorem resultIsWrittenByThePrgCommands : Obligations.ResultIsWrittenByThePrgCommands := by
  unfold Obligations.ResultIsWrittenByThePrgCommands
  refine ⟨rfl, fun v s => writeReg_resultRegs .result (by decide) v s, readReg_reset .result, ?_⟩
  intro i s t h _
  refine ⟨fun hi ht => ?_, fun hi ht => ?_, fun h1 h2 h3 => ?_⟩
  · obtain ⟨-, rfl⟩ := exec_clean i s t h ht
    rcases hi with rfl | rfl <;> rfl
  · obtain ⟨-, rfl⟩ := exec_clean i s t h ht
    subst hi
    rfl
  · exact exec_keeps State.result i s t h (fun _ => rfl) (commandEffect_result i s h1 h2 h3)

/-- Settles O27: the commands by their effects, host accesses by `liveGenerator_hostAccess`. -/
theorem liveGeneratorIsWrittenByItsCommands : Obligations.LiveGeneratorIsWrittenByItsCommands := by
  unfold Obligations.LiveGeneratorIsWrittenByItsCommands
  refine ⟨rfl, rfl, rfl, rfl, fun r hr => ?_, fun i s t h _ => ?_, fun s t a ts hturns hsafe hstep => ?_⟩
  · have hres : r ∈ resultRegs := List.Sublist.subset (by decide) hr
    have h0 := regResetValue_resultRegs r hres
    exact ⟨writeReg_resultRegs r hres, (readReg_reset r).trans h0,
      fun s => ⟨(readReg_softReset r s).trans h0, (readReg_powerOnReset r s).trans h0⟩⟩
  · refine ⟨?_, ?_, ?_, fun hi => ?_, fun h1 h2 h3 => ?_⟩
    · rintro rfl ht
      obtain ⟨hpass, rfl⟩ := exec_clean .prgload s t h ht
      exact ⟨rfl, rfl, rfl, rfl, (prgload_passes s).1 hpass⟩
    · rintro rfl ht
      obtain ⟨-, rfl⟩ := exec_clean .prggen s t h ht
      rfl
    · rintro rfl ht
      obtain ⟨-, rfl⟩ := exec_clean .prggenn s t h ht
      rfl
    · simpa using exec_keeps (fun s => (s.lcgA, s.lcgC, s.lcgM)) i s t h (fun _ => rfl)
        (commandEffect_lcgParameters i s hi)
    · exact exec_keeps State.lcgS i s t h (fun _ => rfl) (commandEffect_lcgS i s h1 h2 h3)
  · rw [step_host s a ts hturns] at hstep
    simpa [liveGenerator] using liveGenerator_hostAccess a _ t hsafe hstep

/-- Settles O28: the four commands by `exec_clean_outLen` and `exec_clean_bufferHolds`, the others by their effects. -/
theorem outLenCountsTheBytesWritten : Obligations.OutLenCountsTheBytesWritten := by
  unfold Obligations.OutLenCountsTheBytesWritten
  refine ⟨rfl, fun v s => writeReg_resultRegs .outLen (by decide) v s, readReg_reset .outLen, ?_⟩
  intro i s t hwf h _
  refine ⟨fun ht => ?_, fun hi => ?_⟩
  · have hlen := exec_clean_outLen i s t h ht
    refine ⟨?_, ?_, ?_, ?_, fun hi x hx => ?_⟩
    · rintro rfl
      exact hlen (by decide)
    · rintro rfl
      simpa [outputLength, schedWords] using hlen (by decide)
    · rintro rfl
      exact hlen (by decide)
    · rintro rfl
      exact hlen (by decide)
    · obtain ⟨-, hout⟩ := exec_clean_bufferHolds i s t hwf h ht hi
      rw [hlen hi, ← outputBytes_length i s (exec_clean i s t h ht).1] at hx
      exact hout x hx
  · simpa using exec_keeps (fun s => (s.outLen, s.buf)) i s t h (fun _ => rfl) (commandEffect_outLen_buf i s hi)

/-- Settles O29: DIGEST leaves the halves of the digest in the registers and the whole of it in the buffer. -/
theorem digestRegistersHoldTheLastDigest : Obligations.DigestRegistersHoldTheLastDigest := by
  unfold Obligations.DigestRegistersHoldTheLastDigest
  refine ⟨rfl, rfl, fun r hr => ?_, fun i s t hwf h _ => ⟨?_, fun hi => ?_⟩⟩
  · have hres : r ∈ resultRegs := List.Sublist.subset (by decide) hr
    have h0 := regResetValue_resultRegs r hres
    exact ⟨writeReg_resultRegs r hres, (readReg_reset r).trans h0⟩
  · rintro rfl ht
    have hholds := exec_clean_bufferHolds .digest s t hwf h ht (by decide)
    rw [show outputBytes .digest s = (digest16 (sourceOf s)).take 8 ++ (digest16 (sourceOf s)).drop 8 from
      (List.take_append_drop 8 _).symm] at hholds
    have hread := bufRead_of_bufferHolds_append _ _ _ _ _ hholds
    simp only [List.length_take, List.length_drop, digest16_length, Nat.reduceSub, Nat.reduceLeDiff, inf_of_le_left] at hread
    obtain ⟨-, rfl⟩ := exec_clean .digest s t h ht
    obtain ⟨hlo, hhi⟩ := digestEffect_halves s
    obtain ⟨hrlo, hrhi⟩ := hread
    rw [hrlo, hrhi]
    exact ⟨hlo, hhi, hlo, hhi⟩
  · simpa using exec_keeps (fun s => (s.digestLo, s.digestHi)) i s t h (fun _ => rfl) (commandEffect_digestRegs i s hi)

/-- Settles O39: such an access leaves the state but for what the host can touch (`hostAccess_busy`). -/
theorem whatTheCommandWasGivenStays : Obligations.WhatTheCommandWasGivenStays := by
  unfold Obligations.WhatTheCommandWasGivenStays
  intro s t a ts hp hturns hsafe hstep
  rw [step_host s a ts hturns] at hstep
  obtain ⟨u, hu⟩ := hostAccess_busy a { s with turns := ts } hp hsafe
  obtain rfl := Host.Outcome.next.inj (hu.symm.trans hstep)
  exact ⟨latchedOf_hostTouched _ u, hp, rfl, rfl, rfl, rfl, rfl, rfl, rfl, rfl⟩

/-- Settles O40, by induction on the list of accesses (`run_hostAccesses_busy`) and one engine turn. -/
theorem resultsDoNotDependOnTheInterleaving : Obligations.ResultsDoNotDependOnTheInterleaving := by
  unfold Obligations.ResultsDoNotDependOnTheInterleaving
  intro accs s ts hp hsafe hturns
  obtain ⟨u, hrun⟩ := run_hostAccesses_busy accs 1 s (.engine :: ts) hp hsafe hturns
  obtain ⟨now, hnow, hlater⟩ := engineTurn_hostTouched { s with turns := ts } u hp
  refine ⟨now, now.withHostSide u, (step_engine _ ts rfl).trans hnow, ?_, rfl⟩
  rw [hrun, run_next ((step_engine _ ts rfl).trans hlater), run_zero]

end Sys2Proof.Proofs
end

section
/-! PROOFS. The statements about the memory map and memory operations (20_memory.md): what a command's completion leaves
as it was, how the window map answers each kind of access, and what buffer reads and writes do in IDLE. -/

namespace Sys2Proof.Machine

open Sys2Proof.Safety

/-! ## What every completion keeps -/

/-- `t` with everything a completion may change, the lifecycle, BLK_A and BLK_B, the results and the buffer, as in `s`
(10_state.md R50; 20_memory.md R84; 60_exceptions.md R252). -/
def State.undoCompletion (t s : State) : State :=
  { t with phase := s.phase, done := s.done, errCode := s.errCode, errCause := s.errCause, errInfo := s.errInfo,
           blkA := s.blkA, blkB := s.blkB, lcgA := s.lcgA, lcgC := s.lcgC, lcgM := s.lcgM, lcgS := s.lcgS,
           result := s.result, outLen := s.outLen, digestLo := s.digestLo, digestHi := s.digestHi, buf := s.buf }

/-- An error completion changes nothing but the lifecycle (60_exceptions.md R248). -/
theorem errorCompletion_undo (e : Raise) (s : State) : (errorCompletion e s).undoCompletion s = s := rfl

/-- No command's effect changes CTRL, HAZ, CMD or an operand register other than BLK_A and BLK_B (10_state.md R50). -/
theorem commandEffect_undo (i : Instr) (s : State) : (commandEffect i s).finish.undoCompletion s = s := by
  cases i <;> rfl

/-- A completion, failed or not, leaves CORE idle with DONE set (60_exceptions.md R252). -/
theorem exec_idle_done (i : Instr) (s t : State) (h : exec i s = .next t) : t.phase = .idle ∧ t.done = true := by
  rcases exec_next i s t h with ⟨e, -, rfl⟩ | ⟨-, rfl⟩ <;> exact ⟨rfl, rfl⟩

/-- Every command's completion answers a next state (60_exceptions.md R252). -/
theorem exec_completes (i : Instr) (s : State) : ∃ t, exec i s = .next t := by
  rcases exec_cases i s with ⟨_, -, h⟩ | ⟨-, h⟩ <;> exact ⟨_, h⟩

/-! ## The window map -/

/-- The window map with its bounds as numbers (20_memory.md R71, R75, R76). -/
theorem busTarget_eq (off w : Nat) :
    busTarget off w =
      if off < 0x1000 then if w = 8 ∧ off % 8 = 0 then .register off else .refused (.badRegisterAccess off w)
      else if off < 0x10000 then .refused (.unmapped off)
      else if off < 0x20000 then
        if (w = 1 ∨ w = 2 ∨ w = 4 ∨ w = 8) ∧ off % w = 0 then .buffer (off - 0x10000)
        else .refused (.badBufferAccess off w)
      else .elsewhere := rfl

/-- The hole between the two windows (20_memory.md R71). -/
theorem busTarget_hole (off w : Nat) (hlo : 0x1000 ≤ off) (hhi : off < 0x10000) :
    busTarget off w = .refused (.unmapped off) := by
  rw [busTarget_eq, if_neg (by omega), if_pos hhi]

/-- A register access of a wrong width or alignment (20_memory.md R76). -/
theorem busTarget_badRegister (off w : Nat) (hoff : off < 0x1000) (hbad : w ≠ 8 ∨ off % 8 ≠ 0) :
    busTarget off w = .refused (.badRegisterAccess off w) := by
  rw [busTarget_eq, if_pos hoff, if_neg (by omega)]

/-- A buffer access of a wrong width or alignment (20_memory.md R75). -/
theorem busTarget_badBuffer (off w : Nat) (hlo : 0x10000 ≤ off) (hhi : off < 0x20000)
    (hbad : w ∉ [1, 2, 4, 8] ∨ off % w ≠ 0) : busTarget off w = .refused (.badBufferAccess off w) := by
  have hillegal : ¬ ((w = 1 ∨ w = 2 ∨ w = 4 ∨ w = 8) ∧ off % w = 0) := by
    rintro ⟨hw, hm⟩
    rcases hbad with hbad | hbad
    · exact hbad (by simpa using hw)
    · exact hbad hm
  rw [busTarget_eq, if_neg (by omega), if_neg (by omega), if_pos hhi, if_neg hillegal]

/-- Past the window (20_memory.md R71; log 12). -/
theorem busTarget_past (off w : Nat) (h : 0x20000 ≤ off) : busTarget off w = .elsewhere := by
  rw [busTarget_eq, if_neg (by omega), if_neg (by omega), if_neg (by omega)]

/-- A refused access gets an error response and changes nothing (20_memory.md R77). -/
theorem hostAccess_refused (a : Access) (s : State) (f : Fault) (h : busTarget a.off a.width = .refused f) :
    hostAccess a s = .next (s.respond (.error f)) := by
  simp [hostAccess, h]

/-- An access that CORE does not decode changes nothing (20_memory.md R71; log 12). -/
theorem hostAccess_elsewhere (a : Access) (s : State) (h : busTarget a.off a.width = .elsewhere) :
    hostAccess a s = .next (s.respond .elsewhere) := by
  simp [hostAccess, h]

/-- In either phase a buffer read answers data (43_system.md R234; 70_reset_and_hazards.md R288). -/
theorem hostBufRead_resp (k n : Nat) (s : State) : ∃ x, (hostBufRead k n s).resp = .data n x := by
  unfold hostBufRead
  split <;> exact ⟨_, rfl⟩

/-- An access that reaches a window is answered by an acknowledgement or by data (43_system.md R232 to R235). -/
theorem hostAccess_answered (a : Access) (s : State) (hnf : ∀ f, busTarget a.off a.width ≠ .refused f)
    (hne : busTarget a.off a.width ≠ .elsewhere) :
    ∃ t, hostAccess a s = .next t ∧ (t.resp = .written ∨ ∃ n x, t.resp = .data n x) := by
  rcases hostAccess_cases a s with ⟨f, ht, -⟩ | ⟨ht, -⟩ | ⟨w, -, -, h⟩ | ⟨w, v, -, -, h⟩ | ⟨k, -, -, h⟩ | ⟨k, v, -, -, h⟩
  · exact absurd ht (hnf f)
  · exact absurd ht hne
  · exact ⟨_, h, .inr ⟨8, _, rfl⟩⟩
  · exact ⟨_, h, .inl rfl⟩
  · exact ⟨_, h, .inr ⟨a.width, hostBufRead_resp k a.width s⟩⟩
  · exact ⟨_, h, .inl rfl⟩

/-- A legal access of the register window reaches the register window (20_memory.md R76). -/
theorem busTarget_of_registerAccessOk (a : Access) (h : registerAccessOk a) :
    busTarget a.off a.width = .register a.off :=
  (busTarget_register a.off a.width).2 h

/-- A legal access of the buffer window reaches the buffer at its offset (20_memory.md R75). -/
theorem busTarget_of_bufferAccessOk (a : Access) (k : Nat) (h : bufferAccessOk a k) :
    busTarget a.off a.width = .buffer k :=
  (busTarget_eq_buffer a.off a.width k).2 h

/-! ## Buffer accesses in IDLE -/

/-- A legal buffer access is at most eight bytes wide and ends inside the buffer (20_memory.md R75). -/
theorem bufferAccessOk_bounds (a : Access) (k : Nat) (h : bufferAccessOk a k) :
    a.width ≤ 8 ∧ k + a.width ≤ 65536 := by
  obtain ⟨-, hk, hw | hw | hw | hw, hm⟩ := h <;> rw [hw] at hm ⊢ <;> omega

/-- A legal buffer read in IDLE answers the bytes it covers, little-endian (43_system.md R234). -/
theorem hostAccess_bufRead (a : Access) (k : Nat) (s : State) (hp : s.phase = .idle) (hok : bufferAccessOk a k)
    (hkind : a.kind = .read) :
    hostAccess a s = .next (s.respond (.data a.width (le64 (bufRead s.buf k a.width)))) := by
  simp [hostAccess, busTarget_of_bufferAccessOk a k hok, hkind, hostBufRead, hp]

/-- A legal buffer write in IDLE stores the low bytes of its value (43_system.md R235). -/
theorem hostAccess_bufWrite (a : Access) (k : Nat) (v : Word64) (s : State) (hp : s.phase = .idle)
    (hok : bufferAccessOk a k) (hkind : a.kind = .write v) :
    hostAccess a s =
      .next (({ s with buf := bufWrite s.buf k (bytesOf a.width v) } : State).respond .written) := by
  simp [hostAccess, busTarget_of_bufferAccessOk a k hok, hkind, hostBufWrite, hp]

/-- The step of a legal buffer read in IDLE: it changes no register, no flag and no byte (20_memory.md R80). -/
theorem step_bufRead (s : State) (a : Access) (k : Nat) (ts : List Turn) (hp : s.phase = .idle)
    (hturns : s.turns = .host a :: ts) (hok : bufferAccessOk a k) (hkind : a.kind = .read) :
    step s = .next { s with turns := ts, resp := .data a.width (le64 (bufRead s.buf k a.width)) } :=
  (step_host s a ts hturns).trans (hostAccess_bufRead a k { s with turns := ts } hp hok hkind)

/-- The step of a legal buffer write in IDLE (43_system.md R235). -/
theorem step_bufWrite (s : State) (a : Access) (k : Nat) (v : Word64) (ts : List Turn) (hp : s.phase = .idle)
    (hturns : s.turns = .host a :: ts) (hok : bufferAccessOk a k) (hkind : a.kind = .write v) :
    step s = .next { s with turns := ts, buf := bufWrite s.buf k (bytesOf a.width v), resp := .written } :=
  (step_host s a ts hturns).trans (hostAccess_bufWrite a k v { s with turns := ts } hp hok hkind)

/-- Byte `i` of a word shifted right by `d` bytes is its byte `d + i`. -/
theorem extractLsb'_ushiftRight_bytes (v : Word64) (d i : Nat) :
    (v >>> (8 * d)).extractLsb' (8 * i) 8 = v.extractLsb' (8 * (d + i)) 8 := by
  refine BitVec.eq_of_getLsbD_eq fun b _ => ?_
  simp [Nat.mul_add, Nat.add_assoc]

/-- Reading inside a written range gives the bytes of the value from there on (20_memory.md R74). -/
theorem bufRead_inside_bufWrite (m : Memory) (hwf : Memory.wf m) (k n j r : Nat) (v : Word64) (hlo : k ≤ j)
    (hhi : j + r ≤ k + n) (hb : k + n ≤ 65536) :
    bufRead (bufWrite m k (bytesOf n v)) j r = bytesOf r (v >>> (8 * (j - k))) := by
  refine List.map_congr_left fun i hi => ?_
  have hir := List.mem_range.1 hi
  have hin : j - k + i < n := by omega
  calc Memory.read (bufWrite m k (bytesOf n v)) (j + i)
      = Memory.read (bufWrite m k (bytesOf n v)) (k + (j - k + i)) := by congr 1; omega
    _ = (bytesOf n v).getD (j - k + i) 0#8 :=
        read_bufWrite_in m hwf k _ _ (by rwa [bytesOf_length]) (by simp only [Config.bufBytes]; omega)
    _ = v.extractLsb' (8 * (j - k + i)) 8 := by rw [List.getD, bytesOf_getElem? n v _ hin]; rfl
    _ = (v >>> (8 * (j - k))).extractLsb' (8 * i) 8 := (extractLsb'_ushiftRight_bytes v (j - k) i).symm

/-- The value such a read answers (20_memory.md R73, R74). -/
theorem le64_bytesOf_ushiftRight (v : Word64) (d r : Nat) :
    le64 (bytesOf r (v >>> d)) = BitVec.ofNat 64 (v.toNat / 2 ^ d % 2 ^ (8 * r)) := by
  rw [le64, leNat_bytesOf, BitVec.toNat_ushiftRight, Nat.shiftRight_eq_div_pow]

end Sys2Proof.Machine

/-! ## The statements -/

namespace Sys2Proof.Proofs

open Sys2Proof.Machine Sys2Proof.Safety

/-- Settles O7: neither an error report nor an effect touches what `State.undoCompletion` leaves. -/
theorem commandsKeepControlAndOperands : Obligations.CommandsKeepControlAndOperands := by
  unfold Obligations.CommandsKeepControlAndOperands
  intro i s
  obtain ⟨t, ht⟩ := exec_completes i s
  obtain ⟨hidle, hdone⟩ := exec_idle_done i s t ht
  refine ⟨t, ht, hidle, hdone, ?_⟩
  exact exec_keeps (fun u => u.undoCompletion s) i s t ht (fun e => errorCompletion_undo e s) (commandEffect_undo i s)

/-- Settles O44: a read answers the bytes as they stand (`hostAccess_bufRead`); after a write they are the value's
(`bufRead_inside_bufWrite`). -/
theorem bufferWriteThenNarrowerRead : Obligations.BufferWriteThenNarrowerRead := by
  unfold Obligations.BufferWriteThenNarrowerRead
  refine ⟨fun s a k ts hp hturns hkind hok => ?_, fun s k n j m v ts hwf hp hwok hrok hlo hhi hturns => ?_⟩
  · obtain ⟨hw8, -⟩ := bufferAccessOk_bounds a k hok
    refine ⟨le64 (bufRead s.buf k a.width), step_bufRead s a k ts hp hturns hok hkind, ?_, fun i hi => ?_⟩
    · simpa using le64_lt (bufRead s.buf k a.width)
    · rw [le64_extractLsb' _ (by simpa using hw8) i (by simpa using hi), bufRead_getD _ _ _ _ hi]
  · obtain ⟨-, hb⟩ := bufferAccessOk_bounds _ k hwok
    have hwrite := step_bufWrite s _ k v _ hp hturns hwok rfl
    have hread := step_bufRead { s with turns := .host ⟨0x10000 + j, m, .read⟩ :: ts,
                                        buf := bufWrite s.buf k (bytesOf n v), resp := .written } _ j ts hp rfl hrok rfl
    refine ⟨_, (run_next hwrite).trans ((run_next hread).trans (run_zero _)), ?_, fun x hx => ?_⟩
    · rw [← le64_bytesOf_ushiftRight, ← bufRead_inside_bufWrite s.buf hwf k n j m v hlo hhi hb]
    · exact read_bufWrite_out s.buf hwf k _ x (by rwa [bytesOf_length])

/-- Settles O46: the window map gives the target in each case, and the target the answer. -/
theorem busErrorsAreExactlyTheRefusedAccesses : Obligations.BusErrorsAreExactlyTheRefusedAccesses := by
  unfold Obligations.BusErrorsAreExactlyTheRefusedAccesses
  intro s a ts hturns
  rw [step_host s a ts hturns]
  refine ⟨fun hlo hhi => ?_, fun hoff hbad => ?_, fun hlo hhi hbad => ?_, fun hoff => ?_, fun hok => ?_⟩
  · exact hostAccess_refused a _ _ (busTarget_hole a.off a.width hlo hhi)
  · exact hostAccess_refused a _ _ (busTarget_badRegister a.off a.width hoff hbad)
  · exact hostAccess_refused a _ _ (busTarget_badBuffer a.off a.width hlo hhi hbad)
  · exact hostAccess_elsewhere a _ (busTarget_past a.off a.width hoff)
  · have hwindow : (∀ f, busTarget a.off a.width ≠ .refused f) ∧ busTarget a.off a.width ≠ .elsewhere := by
      rcases hok with hreg | ⟨k, hbuf⟩
      · simp [busTarget_of_registerAccessOk a hreg]
      · simp [busTarget_of_bufferAccessOk a k hbuf]
    obtain ⟨hnf, hne⟩ := hwindow
    obtain ⟨t, ht, hresp⟩ := hostAccess_answered a { s with turns := ts } hnf hne
    refine ⟨t, ht, ?_⟩
    rcases hresp with hresp | ⟨n, x, hresp⟩ <;> simp [hresp]

end Sys2Proof.Proofs
end

section
/-! PROOFS. The statements about the encoding of command words and of the host's scripts (30_encoding.md): the decoder's
three answers as rules, what an illegal word does from its CMD write to its completion, and the chunks of `wrbuf`. -/

namespace Sys2Proof

/-! ## The fields of a word -/

/-- Field OPCODE as a number (30_encoding.md R101). -/
theorem opcodeField_toNat (v : Word64) : (opcodeField v).toNat = v.toNat % 256 := by
  simp [opcodeField]

/-- Field RSVD is 0 exactly when nothing is left above bit 7 (30_encoding.md R101). -/
theorem reservedField_eq_zero (v : Word64) : reservedField v = 0#56 ↔ v.toNat / 256 = 0 := by
  have hlt : v.toNat / 256 < 2 ^ 56 := by have := v.isLt; omega
  have hfield : (reservedField v).toNat = v.toNat / 256 := by
    rw [reservedField, BitVec.extractLsb'_toNat, Nat.shiftRight_eq_div_pow, Nat.mod_eq_of_lt hlt]
  rw [← BitVec.toNat_inj, hfield]
  rfl

/-- The eleven opcodes are the commands' opcodes (30_encoding.md R103). -/
theorem mem_definedOpcodes (op : Byte) : op ∈ definedOpcodes ↔ ∃ i : Instr, i.opcode = op := by
  constructor
  · have hrow : ∀ op ∈ definedOpcodes, ∃ row ∈ opcodeMap, row.2.opcode = op := by decide
    intro h
    obtain ⟨row, -, hop⟩ := hrow op h
    exact ⟨row.2, hop⟩
  · rintro ⟨i, rfl⟩
    cases i <;> decide

/-- The same test on the number in bits 7:0 (30_encoding.md R104). -/
theorem opcodeField_mem_definedOpcodes (v : Word64) :
    opcodeField v ∈ definedOpcodes ↔
      v.toNat % 256 ∈ [0x00, 0x01, 0x08, 0x09, 0x0A, 0x0B, 0x0C, 0x10, 0x11, 0x12, 0x13] := by
  have hinj : Function.Injective (BitVec.toNat : Byte → Nat) := fun _ _ => BitVec.eq_of_toNat_eq
  rw [← opcodeField_toNat, ← List.mem_map_of_injective hinj]
  rfl

/-- A word is well-formed when its opcode is defined and its reserved field is 0 (30_encoding.md R104). -/
theorem commandWordWf_iff (v : Word64) :
    commandWordWf v = true ↔ opcodeField v ∈ definedOpcodes ∧ reservedField v = 0#56 := by
  simp [commandWordWf, opcodeDefined, reservedClear, opcodeField, reservedField]

/-! ## The decoder's three answers -/

/-- The opcode test comes first, whatever the reserved bits are (30_encoding.md R104, R105). -/
theorem decode_undefinedOpcode (v : Word64) (h : opcodeField v ∉ definedOpcodes) :
    decode v = .error .undefinedOpcode := by
  rw [mem_definedOpcodes] at h
  rcases decode_cases v with ⟨hd, -⟩ | ⟨i, -, hi, -⟩ | ⟨i, -, hi, -⟩
  · exact hd
  all_goals exact absurd ⟨i, hi⟩ h

/-- A defined opcode with a reserved bit set (30_encoding.md R104, R106). -/
theorem decode_reservedBits (v : Word64) (hop : opcodeField v ∈ definedOpcodes) (hr : reservedField v ≠ 0#56) :
    decode v = .error .reservedBits := by
  obtain ⟨i, hi⟩ := (mem_definedOpcodes _).1 hop
  rcases decode_cases v with ⟨-, hn⟩ | ⟨-, hd, -⟩ | ⟨-, -, -, hz⟩
  · rw [(instrOfOpcode_eq_some _ i).2 hi] at hn
    cases hn
  · exact hd
  · exact absurd hz hr

/-- A word decodes to a command exactly when it holds the command's opcode and its reserved field is 0
(30_encoding.md R103, R104). -/
theorem decode_eq_ok (v : Word64) (i : Instr) :
    decode v = .ok i ↔ i.opcode = opcodeField v ∧ reservedField v = 0#56 := by
  constructor
  · intro h
    rcases decode_cases v with ⟨hd, -⟩ | ⟨j, hd, -⟩ | ⟨j, hd, hj⟩
    all_goals cases hd.symm.trans h
    exact hj
  · rintro ⟨hi, hr⟩
    simp [decode, (instrOfOpcode_eq_some _ i).2 hi, hr]

/-- Decoding inverts encoding (30_encoding.md R103, R104). -/
theorem decode_encode (i : Instr) : decode (encode i) = .ok i :=
  (decode_eq_ok _ i).2 ⟨(opcodeField_encode i).symm, reservedField_encode i⟩

/-- The encoding of a command is the one word that decodes to it (30_encoding.md R101, R103). -/
theorem eq_encode_of_decode (v : Word64) (i : Instr) (h : decode v = .ok i) : v = encode i := by
  obtain ⟨hop, hr⟩ := (decode_eq_ok v i).1 h
  rw [word_eq_fields v, hr, ← hop, encode]

/-- A word is well-formed exactly when it decodes to a command (30_encoding.md R104). -/
theorem commandWordWf_iff_decode (v : Word64) : commandWordWf v = true ↔ ∃ i, decode v = .ok i := by
  simp only [commandWordWf_iff, mem_definedOpcodes, decode_eq_ok, exists_and_right]

/-- The opcode table's numbering of a word's 64 bits is the word (log 17). -/
@[simp] theorem tableWord_toNat (v : Word64) : tableWord 64 v.toNat = v := by
  simp [tableWord, Nat.mod_eq_of_lt v.isLt]

end Sys2Proof

namespace Sys2Proof.Machine

open Sys2Proof.Safety

/-! ## A command word from its CMD write to its completion -/

/-- In IDLE a CMD write accepts its word (10_state.md R25; 60_exceptions.md R251). -/
theorem step_cmdWrite (s : State) (v : Word64) (ts : List Turn) (hp : s.phase = .idle)
    (hturns : s.turns = .host ⟨0x018, 8, .write v⟩ :: ts) :
    step s = .next { s.accept v with turns := ts, resp := .written } := by
  have hwrite : hostRegWrite 0x018 v { s with turns := ts } = ({ s with turns := ts } : State).accept v :=
    if_neg (by simp [hp])
  rw [step_host s _ ts hturns, hostAccess_write _ _ _ (by decide) (by decide), hwrite]
  rfl

/-- The completion of an executing word that encodes no command (30_encoding.md R105, R106). -/
theorem engineTurn_illegal (s : State) (e : DecodeError) (hp : s.phase = .busy) (hd : decode s.cmd = .error e) :
    engineTurn s = .next (errorCompletion (decodeRaise e s.cmd) s) := by
  simp [engineTurn, hp, fetchCommand, hd, completeIllegal]

/-- A word that encodes no command is accepted, and the engine's next turn completes it with the error it raises and
changes nothing else (30_encoding.md R105, R106; 60_exceptions.md R248). -/
theorem run_illegalWord (s : State) (v : Word64) (ts : List Turn) (e : DecodeError) (hp : s.phase = .idle)
    (hturns : s.turns = .host ⟨0x018, 8, .write v⟩ :: .engine :: ts) (hd : decode v = .error e) :
    Host.Core.run core 2 s =
      .next (errorCompletion (decodeRaise e v) { s.accept v with turns := ts, resp := .written }) := by
  have hcomplete := engineTurn_illegal { s.accept v with turns := ts, resp := .written } e rfl hd
  rw [run_next (step_cmdWrite s v _ hp hturns), run_next ((step_engine _ ts rfl).trans hcomplete), run_zero]
  rfl

/-! ## The chunks of `wrbuf` -/

/-- A chunk is a legal width for its offset and no longer than what remains (20_memory.md R75; 30_encoding.md R111). -/
theorem chunkWidth_legal (p rem : Nat) (h : 0 < rem) :
    (chunkWidth p rem = 1 ∨ chunkWidth p rem = 2 ∨ chunkWidth p rem = 4 ∨ chunkWidth p rem = 8) ∧
      p % chunkWidth p rem = 0 ∧ chunkWidth p rem ≤ rem := by
  unfold chunkWidth
  split
  · omega
  · split
    · omega
    · split <;> omega

/-- The write of one chunk `c` of `wrbuf k, bs` (30_encoding.md R111). -/
def chunkWrite (k : Nat) (bs : List Byte) (c : Nat × Nat) : Turn := scriptWb c.2 c.1 (le64 (slice bs (c.1 - k) c.2))

/-- `wrbuf` is the writes of its chunks in order (30_encoding.md R111). -/
theorem scriptWrbuf_eq (k : Nat) (bs : List Byte) : scriptWrbuf k bs = (chunks k bs.length).map (chunkWrite k bs) := rfl

/-- What is left of a sequence from `d` on is its next `w` bytes and what is left after them. -/
theorem slice_append_drop (bs : List Byte) (d w : Nat) : slice bs d w ++ bs.drop (d + w) = bs.drop d := by
  rw [slice, ← List.drop_drop, List.take_append_drop]

theorem slice_length_of_le (bs : List Byte) (d w : Nat) (h : d + w ≤ bs.length) : (slice bs d w).length = w := by
  rw [slice_length]
  omega

/-- `s` with the bytes `bs` stored from offset `p` on and the turns `ts` still to come (20_memory.md R81). -/
def State.storeBytes (s : State) (p : Nat) (bs : List Byte) (ts : List Turn) : State :=
  { s with buf := bufWrite s.buf p bs, turns := ts }

/-- Storing one sequence after another, each answered, is storing them joined (20_memory.md R81). -/
theorem storeBytes_append (s : State) (p : Nat) (xs ys : List Byte) (us ts : List Turn) (q r : Response) :
    ((((s.storeBytes p xs us).respond q).storeBytes (p + xs.length) ys ts).respond r) =
      (s.storeBytes p (xs ++ ys) ts).respond r := by
  simp [State.storeBytes, State.respond, bufWrite_append]

/-- The step of one chunk's write in IDLE stores the chunk's bytes (43_system.md R235). -/
theorem step_chunkWrite (s : State) (k d w : Nat) (bs : List Byte) (ts : List Turn) (hp : s.phase = .idle)
    (hw : w = 1 ∨ w = 2 ∨ w = 4 ∨ w = 8) (halign : (k + d) % w = 0) (hlen : d + w ≤ bs.length)
    (hb : k + bs.length ≤ 65536) (hturns : s.turns = chunkWrite k bs (k + d, w) :: ts) :
    step s = .next ((s.storeBytes (k + d) (slice bs d w) ts).respond .written) := by
  have hok : bufferAccessOk ⟨0x10000 + (k + d), w, .write (le64 (slice bs (k + d - k) w))⟩ (k + d) :=
    ⟨rfl, by omega, hw, halign⟩
  have hl := slice_length_of_le bs d w hlen
  have hbytes : bytesOf w (le64 (slice bs d w)) = slice bs d w := by
    have h := bytesOf_le64 (slice bs d w) (by omega)
    rwa [hl] at h
  rw [step_bufWrite s _ (k + d) _ ts hp hturns hok rfl, Nat.add_sub_cancel_left, hbytes]
  rfl

/-- The writes of the chunks from byte `d` of `bs` on store the rest of `bs` (30_encoding.md R111). -/
theorem run_chunkWrites (k : Nat) (bs : List Byte) (hb : k + bs.length ≤ 65536) (ts : List Turn) (fuel d : Nat)
    (hd : d ≤ bs.length) (hfuel : bs.length - d ≤ fuel) (s : State) (hp : s.phase = .idle)
    (hturns : s.turns = (chunksFrom fuel (k + d) (bs.length - d)).map (chunkWrite k bs) ++ ts) :
    ∃ r, Host.Core.run core (chunksFrom fuel (k + d) (bs.length - d)).length s =
      .next ((s.storeBytes (k + d) (bs.drop d) ts).respond r) := by
  induction fuel generalizing d s with
  | zero =>
    obtain rfl : s.turns = ts := hturns
    rw [List.drop_eq_nil_of_le (by omega)]
    exact ⟨s.resp, rfl⟩
  | succ fuel ih =>
    by_cases hrem : bs.length - d = 0
    · rw [chunksFrom, if_pos hrem] at hturns ⊢
      obtain rfl : s.turns = ts := hturns
      rw [List.drop_eq_nil_of_le (by omega)]
      exact ⟨s.resp, rfl⟩
    · rw [chunksFrom, if_neg hrem] at hturns ⊢
      obtain ⟨hw, halign, hle⟩ := chunkWidth_legal (k + d) (bs.length - d) (by omega)
      generalize chunkWidth (k + d) (bs.length - d) = w at hw halign hle hturns ⊢
      have hlen : d + w ≤ bs.length := by omega
      have hstep := step_chunkWrite s k d w bs _ hp hw halign hlen hb hturns
      rw [Nat.sub_sub, Nat.add_assoc] at hstep ⊢
      obtain ⟨r, hr⟩ := ih (d + w) hlen (by omega) ((s.storeBytes (k + d) (slice bs d w) _).respond .written) hp rfl
      have hjoin := storeBytes_append s (k + d) (slice bs d w) (bs.drop (d + w))
      rw [slice_append_drop, slice_length_of_le bs d w hlen, Nat.add_assoc] at hjoin
      exact ⟨r, (run_next hstep).trans (hr.trans (congrArg _ (hjoin ..)))⟩

end Sys2Proof.Machine

/-! ## The statements -/

namespace Sys2Proof.Proofs

open Sys2Proof.Machine Sys2Proof.Safety

/-- Settles O3: a word decodes to `i` exactly when it holds the opcode of `i` and nothing above it. -/
theorem encodeAndDecodeAgree : Obligations.EncodeAndDecodeAgree := by
  unfold Obligations.EncodeAndDecodeAgree
  refine ⟨fun i _ => ⟨decode_encode i, ?_, ?_⟩, eq_encode_of_decode, commandWordWf_iff_decode⟩
  · exact (commandWordWf_iff_decode _).2 ⟨i, decode_encode i⟩
  · rw [decodeTableWord, tableWord_toNat, decode_encode]

/-- Settles O2: the decoder's three answers, on the numbers in the two fields. -/
theorem everyWordDecodesToOneCase : Obligations.EveryWordDecodesToOneCase := by
  unfold Obligations.EveryWordDecodesToOneCase
  intro v
  rw [← opcodeField_mem_definedOpcodes]
  refine ⟨decode_undefinedOpcode v, fun hop hr => ?_, fun row hrow hop hr => ?_, fun e => ?_⟩
  · exact decode_reservedBits v hop (mt (reservedField_eq_zero v).1 hr)
  · have hopcode : ∀ row ∈ [(0x00, Instr.nop), (0x01, .digest), (0x08, .keyexp), (0x09, .encblk), (0x0A, .decblk),
        (0x0B, .enccbc), (0x0C, .deccbc), (0x10, .prgload), (0x11, .prggen), (0x12, .prggenn), (0x13, .prgperiod)],
        row.2.opcode.toNat = row.1 := by decide
    refine (decode_eq_ok v row.2).2 ⟨BitVec.eq_of_toNat_eq ?_, (reservedField_eq_zero v).2 hr⟩
    rw [hopcode row hrow, opcodeField_toNat, hop]
  · cases e <;> exact ⟨rfl, rfl, rfl⟩

/-- Settles O6: the three gaps are the undefined opcodes, and `run_illegalWord` gives the end state of both errors. -/
theorem illegalWordsCompleteWithAnError : Obligations.IllegalWordsCompleteWithAnError := by
  unfold Obligations.IllegalWordsCompleteWithAnError
  intro s v ts hp hturns
  refine ⟨fun hgap => ?_, fun hop hr => ?_⟩
  · have hundef : opcodeField v ∉ definedOpcodes := by
      rw [opcodeField_mem_definedOpcodes]
      simp only [List.mem_cons, List.not_mem_nil, or_false]
      omega
    exact run_illegalWord s v ts _ hp hturns (decode_undefinedOpcode v hundef)
  · have hdefined := (opcodeField_mem_definedOpcodes v).2 hop
    have hset := mt (reservedField_eq_zero v).1 hr
    exact run_illegalWord s v ts _ hp hturns (decode_reservedBits v hdefined hset)

/-- Settles O45: the chunks from byte 0 on store all of the sequence (`run_chunkWrites`). -/
theorem wrbufStoresTheByteSequence : Obligations.WrbufStoresTheByteSequence := by
  unfold Obligations.WrbufStoresTheByteSequence
  intro s k bs ts hwf hp hb hturns
  obtain ⟨r, hrun⟩ := run_chunkWrites k bs hb ts bs.length 0 (by omega) (by omega) s hp hturns
  rw [scriptWrbuf_eq, List.length_map]
  exact ⟨_, hrun, bufferHolds_bufWrite s.buf hwf k bs hb, rfl⟩

/-- Settles O1: each command's word is its encoding, and the illegal words fail the first test they are to fail. -/
theorem decodesWrittenOutWords : Obligations.DecodesWrittenOutWords := by
  unfold Obligations.DecodesWrittenOutWords
  exact ⟨decode_encode .nop, decode_encode .digest, decode_encode .keyexp, decode_encode .encblk,
    decode_encode .decblk, decode_encode .enccbc, decode_encode .deccbc, decode_encode .prgload,
    decode_encode .prggen, decode_encode .prggenn, decode_encode .prgperiod,
    decode_undefinedOpcode _ (by decide), decode_undefinedOpcode _ (by decide), decode_undefinedOpcode _ (by decide),
    decode_reservedBits _ (by decide) (by decide), decode_reservedBits _ (by decide) (by decide),
    decode_undefinedOpcode _ (by decide)⟩

end Sys2Proof.Proofs
end

section
/-! PROOFS. The statements about the digest engine (40_digest.md): a command's first failing test and what it answers,
DIGEST's three tests in the words of the claims, its effect, and the shape of the padding. -/

namespace Sys2Proof.Machine

open Sys2Proof.Safety

/-! ## A command's first failing test -/

/-- A command answers the error of the one failing test all of whose predecessors pass (60_exceptions.md R246, R248). -/
theorem exec_firstFailing (i : Instr) (s : State) (pre : List Check) (c : Check) (post : List Check)
    (hchecks : commandChecks i s = pre ++ c :: post) (hpre : ∀ d ∈ pre, d.fails = false) (hc : c.fails = true) :
    exec i s = failed (causeCode c.error.cause) (causeNumber c.error.cause) c.error.info s :=
  exec_error i s c.error ((firstError_eq_some _ _).2 ⟨pre, c, post, hchecks, hc, rfl, hpre⟩)

/-- SRC_RANGE holds exactly on a source past the buffer's end (20_memory.md R82). -/
theorem srcRangeCheck_fails (s : State) :
    (srcRangeCheck s).fails = true ↔ 65536 < s.srcAddr.toNat + s.srcLen.toNat := by
  simp only [srcRangeCheck, Bool.not_eq_true', inRange_eq_false, srcOff, srcLength]

/-- SRC_RANGE passes exactly on a source inside the buffer (20_memory.md R82). -/
theorem srcRangeCheck_passes (s : State) :
    (srcRangeCheck s).fails = false ↔ s.srcAddr.toNat + s.srcLen.toNat ≤ 65536 := by
  rw [← Bool.not_eq_true, srcRangeCheck_fails, Nat.not_lt]

/-- DST_RANGE holds exactly on a destination past the buffer's end (20_memory.md R82). -/
theorem dstRangeCheck_fails (n : Nat) (s : State) : (dstRangeCheck n s).fails = true ↔ 65536 < s.dstAddr.toNat + n := by
  simp only [dstRangeCheck, Bool.not_eq_true', inRange_eq_false, dstOff]

/-- DST_RANGE passes exactly on a destination inside the buffer (20_memory.md R82). -/
theorem dstRangeCheck_passes (n : Nat) (s : State) : (dstRangeCheck n s).fails = false ↔ s.dstAddr.toNat + n ≤ 65536 := by
  rw [← Bool.not_eq_true, dstRangeCheck_fails, Nat.not_lt]

/-- OVERLAP with the source holds exactly where the destination shares a byte with it (60_exceptions.md R247). -/
theorem srcOverlapCheck_fails (n : Nat) (s : State) :
    (srcOverlapCheck n s).fails = true ↔ rangesMeet s.dstAddr.toNat n s.srcAddr.toNat s.srcLen.toNat :=
  overlaps_iff _ _ _ _

/-- OVERLAP with the source passes exactly where the destination shares no byte with it (60_exceptions.md R247). -/
theorem srcOverlapCheck_passes (n : Nat) (s : State) :
    (srcOverlapCheck n s).fails = false ↔ ¬ rangesMeet s.dstAddr.toNat n s.srcAddr.toNat s.srcLen.toNat := by
  rw [← srcOverlapCheck_fails, Bool.not_eq_true]

/-! ## DIGEST -/

/-- DIGEST's tests all pass exactly on ranges inside the buffer that share no byte (40_digest.md R142). -/
theorem digest_passes (s : State) :
    firstError (commandChecks .digest s) = none ↔
      s.srcAddr.toNat + s.srcLen.toNat ≤ 65536 ∧ s.dstAddr.toNat + 16 ≤ 65536 ∧
        ¬ rangesMeet s.dstAddr.toNat 16 s.srcAddr.toNat s.srcLen.toNat := by
  rw [firstError_eq_none]
  simp only [commandChecks, List.forall_mem_cons, srcRangeCheck_passes, dstRangeCheck_passes, srcOverlapCheck_passes,
    List.not_mem_nil, false_implies, implies_true, and_true]

/-- A completed DIGEST but for the buffer: the digest's halves in the digest registers, 16 in OUT_LEN, and the end of the
command (10_state.md R46 to R48; 40_digest.md R142). -/
theorem digestEffect_finish_registers (s : State) :
    { (digestEffect s).finish with buf := s.buf } =
      { s with digestLo := le64 ((digest16 (sourceOf s)).take 8), digestHi := le64 ((digest16 (sourceOf s)).drop 8),
               outLen := 16#64, phase := .idle, done := true } := by
  obtain ⟨hlo, hhi⟩ := digestEffect_halves s
  rw [← hlo, ← hhi]
  rfl

/-! ## The padding -/

/-- The zero bytes bring the message and its 0x80 to 56 modulo 64 (40_digest.md R131). -/
theorem padZeros_mod (l : Nat) : (l + 1 + padZeros l) % 64 = 56 := by
  simp only [padZeros]
  omega

/-- The number of zero bytes as the rule writes it (40_digest.md R131). -/
theorem padZeros_toInt (l : Nat) : (padZeros l : Int) = (55 - (l : Int)) % 64 :=
  Int.toNat_of_nonneg (Int.emod_nonneg _ (by decide))

/-- The padded length, part by part (40_digest.md R131). -/
theorem digestPad_length_parts (msg : List Byte) :
    (digestPad msg).length = msg.length + 1 + padZeros msg.length + 8 := by
  simp only [digestPad, List.length_append, List.length_singleton, List.length_replicate, lenField_length]

/-- Byte `k` of a word, as a number (00_scope.md R19). -/
theorem bytesOf_getD {w : Nat} (n : Nat) (v : BitVec w) (k : Nat) (h : k < n) :
    (bytesOf n v).getD k 0#8 = BitVec.ofNat 8 (v.toNat / 2 ^ (8 * k)) := by
  rw [List.getD_eq_getElem?_getD, bytesOf_getElem? n v k h, Option.getD_some, BitVec.extractLsb',
    Nat.shiftRight_eq_div_pow]

/-- Byte `k` of the length field is byte `k` of the bit length modulo 2^64 (40_digest.md R132). -/
theorem lenField_getD (l k : Nat) (h : k < 8) :
    (lenField l).getD k 0#8 = BitVec.ofNat 8 ((8 * l) % 2 ^ 64 / 2 ^ (8 * k)) := by
  rw [lenField, bytes64, bytesOf_getD 8 _ k h, BitVec.toNat_ofNat]

/-- The length field spells the bit length modulo 2^64 (40_digest.md R132). -/
theorem leNat_lenField (l : Nat) : leNat (lenField l) = (8 * l) % 2 ^ 64 := by
  rw [lenField, bytes64, leNat_bytesOf, BitVec.toNat_ofNat, Nat.mod_mod]

end Sys2Proof.Machine

/-! ## The statements -/

namespace Sys2Proof.Proofs

open Sys2Proof.Machine Sys2Proof.Safety

/-- Settles O21: each clause's test is the first of DIGEST's three that fails. -/
theorem digestChecksItsRanges : Obligations.DigestChecksItsRanges := by
  unfold Obligations.DigestChecksItsRanges
  intro s
  refine ⟨fun hsrc => ?_, fun hsrc hdst => ?_, fun hsrc hdst hmeet => ?_⟩
  · exact exec_firstFailing .digest s [] (srcRangeCheck s) _ rfl (List.forall_mem_nil _) ((srcRangeCheck_fails s).2 hsrc)
  · exact exec_firstFailing .digest s [srcRangeCheck s] (dstRangeCheck 16 s) _ rfl
      (List.forall_mem_singleton.2 ((srcRangeCheck_passes s).2 hsrc)) ((dstRangeCheck_fails 16 s).2 hdst)
  · exact exec_firstFailing .digest s [srcRangeCheck s, dstRangeCheck 16 s] (srcOverlapCheck 16 s) [] rfl
      (List.forall_mem_cons.2 ⟨(srcRangeCheck_passes s).2 hsrc,
        List.forall_mem_singleton.2 ((dstRangeCheck_passes 16 s).2 hdst)⟩)
      ((srcOverlapCheck_fails 16 s).2 hmeet)

/-- Settles O10: no test fails, the buffer takes the digest's 16 bytes and the registers are those of
`digestEffect_finish_registers`. -/
theorem digestWritesTheDigest : Obligations.DigestWritesTheDigest := by
  unfold Obligations.DigestWritesTheDigest
  intro s hwf hsrc hdst hmeet
  have hpass := (digest_passes s).2 ⟨hsrc, hdst, hmeet⟩
  exact ⟨(digestEffect s).finish, exec_success .digest s hpass,
    bufferHolds_bufWrite s.buf hwf s.dstAddr.toNat (digest16 (sourceOf s)) (by rwa [digest16_length]),
    digest16_length _, digestEffect_finish_registers s⟩

/-- Settles O49, with `padZeros` for z; the length and the block count are those of `digestPad_length`. -/
theorem digestPaddingFillsBlocks : Obligations.DigestPaddingFillsBlocks := by
  unfold Obligations.DigestPaddingFillsBlocks
  refine ⟨fun msg => ⟨padZeros msg.length, padZeros_lt _, padZeros_mod _, padZeros_toInt _, rfl,
    digestPad_length_parts msg, ?_, ?_⟩, fun l => ⟨lenField_length l, fun k hk => lenField_getD l k hk, fun hl => ?_⟩⟩
  · rw [digestPad_length, Nat.mul_mod_right]
  · rw [digestPad_length, Nat.mul_div_cancel_left _ (by decide)]
  · rw [leNat_lenField]
    omega

end Sys2Proof.Proofs
end

section
/-! PROOFS. The statements about the cipher engine (41_cipher.md): the folded key words, the schedule before mixing, the
inverses of the block and of the chained mode, the commands' tests and what their successes write. -/

namespace Sys2Proof.Machine

open Sys2Proof.Safety

/-! ## The folded key words -/

/-- A zero byte on top does not change the word the bytes spell (00_scope.md R19). -/
theorem le32_append_zero (bs : List Byte) : le32 (bs ++ [0#8]) = le32 bs := by
  simp [le32, leNat_append, leNat]

/-- Rotating a word of at most three bytes left by 8 makes room for one byte below them (41_cipher.md R161). -/
theorem rotl_le32_add_byte (b : Byte) (bs : List Byte) (h : bs.length ≤ 3) :
    rotl (le32 bs) 8 + b.setWidth 32 = le32 (b :: bs) := by
  have hlt : leNat bs < 2 ^ 24 :=
    Nat.lt_of_lt_of_le (leNat_lt bs) (Nat.pow_le_pow_right (by decide) (by omega))
  have hb := b.isLt
  have htop : le32 bs >>> 24 = 0#32 := by
    apply BitVec.eq_of_toNat_eq
    rw [BitVec.toNat_ushiftRight, le32, BitVec.toNat_ofNat, Nat.shiftRight_eq_div_pow]
    simp only [BitVec.toNat_zero]
    omega
  have hrot : rotl (le32 bs) 8 = le32 bs <<< 8 := by simp [rotl, htop]
  apply BitVec.eq_of_toNat_eq
  rw [hrot, BitVec.toNat_add, BitVec.toNat_shiftLeft, Nat.shiftLeft_eq, BitVec.toNat_setWidth]
  simp only [le32, leNat, BitVec.toNat_ofNat]
  omega

/-- The `c` key words when the key bytes from index `n` on, the last one left out, are folded in: word `j` is spelt by
those of its four bytes (41_cipher.md R161). -/
def foldedFrom (key : List Byte) (c n : Nat) : List Word32 :=
  (List.range c).map fun j => le32 ((key.dropLast.take (4 * j + 4)).drop (max n (4 * j)))

theorem foldedFrom_getD (key : List Byte) (c n j : Nat) (h : j < c) :
    (foldedFrom key c n).getD j 0#32 = le32 ((key.dropLast.take (4 * j + 4)).drop (max n (4 * j))) := by
  simp [foldedFrom, h]

/-- With no byte folded in, the words are 0. -/
theorem foldedFrom_all (key : List Byte) (c : Nat) :
    foldedFrom key c (key.length - 1) = List.replicate c 0#32 := by
  refine List.eq_replicate_iff.2 ⟨by simp [foldedFrom], fun w hw => ?_⟩
  obtain ⟨j, -, rfl⟩ := List.mem_map.1 hw
  rw [List.drop_of_length_le (by simp only [List.length_take, List.length_dropLast]; omega)]
  rfl

/-- Folding in the byte at `n` changes the word that byte belongs to, and no other (41_cipher.md R161). -/
theorem foldedFrom_step (key : List Byte) (c n : Nat) (hn : n < key.length - 1) (hc : n / 4 < c) :
    (foldedFrom key c (n + 1)).set (n / 4)
      (rotl ((foldedFrom key c (n + 1)).getD (n / 4) 0#32) 8 + (key.getD n 0#8).setWidth 32) = foldedFrom key c n := by
  have hbyte : key.getD n 0#8 = (key.dropLast.take (4 * (n / 4) + 4))[n]'(by simp; omega) := by
    simp [List.getD, show n < key.length by omega]
  have hword : rotl ((foldedFrom key c (n + 1)).getD (n / 4) 0#32) 8 + (key.getD n 0#8).setWidth 32 =
      le32 ((key.dropLast.take (4 * (n / 4) + 4)).drop n) := by
    rw [foldedFrom_getD _ _ _ _ hc, show max (n + 1) (4 * (n / 4)) = n + 1 by omega,
      rotl_le32_add_byte _ _ (by simp; omega), hbyte, List.getElem_cons_drop]
  rw [hword]
  refine List.ext_getElem (by simp [foldedFrom]) fun j hj _ => ?_
  simp only [foldedFrom, List.length_set, List.length_map, List.length_range] at hj
  rw [List.getElem_set]
  simp only [foldedFrom, List.getElem_map, List.getElem_range]
  by_cases hjn : n / 4 = j
  · rw [if_pos hjn, ← hjn, show max n (4 * (n / 4)) = n by omega]
  · rw [if_neg hjn]
    by_cases hlow : n < 4 * j
    · rw [show max (n + 1) (4 * j) = max n (4 * j) by omega]
    · rw [List.drop_of_length_le (by simp; omega), List.drop_of_length_le (by simp; omega)]

/-- The loop of the fold: from the words with the bytes from index `n` on folded in to the words of all bytes
(41_cipher.md R161). -/
theorem foldl_foldedFrom (key : List Byte) (c n : Nat) (hn : n ≤ key.length - 1) (hc : n ≤ 4 * c) :
    (List.range n).reverse.foldl
      (fun l i => l.set (i / 4) (rotl (l.getD (i / 4) 0#32) 8 + (key.getD i 0#8).setWidth 32))
      (foldedFrom key c n) = foldedFrom key c 0 := by
  induction n with
  | zero => rfl
  | succ n ih =>
    rw [List.range_succ, List.reverse_append, List.reverse_singleton, List.singleton_append, List.foldl_cons,
      foldedFrom_step key c n (by omega) (by omega)]
    exact ih (by omega) (by omega)

/-- The folded key: the little-endian words of the key without its last byte (41_cipher.md R161). -/
theorem foldKey_eq (key : List Byte) (h : key.length % 4 = 0) :
    foldKey key = (List.range (key.length / 4)).map fun j => le32 (slice key.dropLast (4 * j) 4) := by
  have hslice : foldedFrom key (key.length / 4) 0 =
      (List.range (key.length / 4)).map fun j => le32 (slice key.dropLast (4 * j) 4) := by
    refine List.map_congr_left fun j _ => ?_
    rw [Nat.zero_max, slice, List.take_drop]
  rw [← hslice, ← foldl_foldedFrom key (key.length / 4) (key.length - 1) (Nat.le_refl _) (by omega), foldedFrom_all]
  rfl

/-! ## The schedule before mixing -/

/-- Word `i` before mixing is `i` steps from the first (41_cipher.md R162). -/
theorem schedFrom_getD (n i : Nat) (x : Word32) (h : i < n) :
    (schedFrom n x).getD i 0#32 = x + BitVec.ofNat 32 i * schedStep := by
  induction n generalizing i x with
  | zero => omega
  | succ n ih =>
    cases i with
    | zero => simp [schedFrom]
    | succ i =>
      rw [schedFrom, List.getD_cons_succ, ih i _ (by omega), BitVec.ofNat_add, BitVec.add_comm (BitVec.ofNat 32 i),
        BitVec.add_mul, BitVec.one_mul, BitVec.add_assoc]

/-! ## Blocks -/

/-- A loop in reverse order of steps that each undo a step undoes the loop. -/
theorem foldl_reverse_foldl {α β : Type} (f g : β → α → β) (h : ∀ b a, g (f b a) a = b) (l : List α) (b : β) :
    l.reverse.foldl g (l.foldl f b) = b := by
  induction l generalizing b with
  | nil => rfl
  | cons a l ih => rw [List.reverse_cons, List.foldl_concat, List.foldl_cons, ih, h]

/-- DecryptBlock undoes EncryptBlock (41_cipher.md R166). -/
@[simp] theorem decryptBlock_encryptBlock (S : List Word32) (r : Nat) (p : WordPair) :
    decryptBlock S r (encryptBlock S r p) = p := by
  simp only [decryptBlock, encryptBlock]
  rw [foldl_reverse_foldl _ _ fun q k => decRound_encRound S q (k + 1)]
  simp

/-- EncryptBlock undoes DecryptBlock. -/
@[simp] theorem encryptBlock_decryptBlock (S : List Word32) (r : Nat) (p : WordPair) :
    encryptBlock S r (decryptBlock S r p) = p := by
  have hrounds := foldl_reverse_foldl (fun q k => decRound S q (k + 1)) (fun q k => encRound S q (k + 1))
    (fun q k => encRound_decRound S q (k + 1)) (List.range r).reverse p
  rw [List.reverse_reverse] at hrounds
  simpa only [decryptBlock, encryptBlock, BitVec.sub_add_cancel] using hrounds

/-! ## Chained mode -/

/-- The recovered pairs of the ciphertext blocks are the input blocks (41_cipher.md R172, R174). -/
theorem decChainBlocks_encChainBlocks (S : List Word32) (r : Nat) (chain : WordPair) (ps : List WordPair) :
    decChainBlocks S r chain (encChainBlocks S r chain ps) = ps := by
  induction ps generalizing chain with
  | nil => rfl
  | cons p ps ih => simp [encChainBlocks, decChainBlocks, ih]

/-- Past eight bytes, block `k + 1` is block `k` of the rest (41_cipher.md R174). -/
theorem naturalBlock_append_succ (xs ys : List Byte) (hx : xs.length = 8) (k : Nat) :
    naturalBlock (xs ++ ys) (k + 1) = naturalBlock ys k := by
  have hslice : ∀ i, slice (xs ++ ys) (8 + i) 4 = slice ys i 4 := fun i => by
    rw [slice, slice, ← List.drop_drop, List.drop_left' hx]
  simp only [naturalBlock]
  rw [show 8 * (k + 1) = 8 + 8 * k by omega, Nat.add_assoc, hslice, hslice]

/-- Block 0 is the pair the first eight bytes spell (41_cipher.md R174). -/
theorem naturalBlock_append_zero (p : WordPair) (ys : List Byte) : naturalBlock (naturalBytes p ++ ys) 0 = p := by
  simp [naturalBlock, naturalBytes, slice]

/-- The blocks of the bytes of pairs are the pairs (41_cipher.md R172, R174). -/
theorem naturalBlocks_flatMap (ps : List WordPair) :
    (List.range ps.length).map (naturalBlock (ps.flatMap naturalBytes)) = ps := by
  induction ps with
  | nil => rfl
  | cons p ps ih =>
    have htail : naturalBlock (naturalBytes p ++ ps.flatMap naturalBytes) ∘ Nat.succ =
        naturalBlock (ps.flatMap naturalBytes) :=
      funext fun k => naturalBlock_append_succ _ _ (naturalBytes_length p) k
    rw [List.length_cons, List.range_succ_eq_map, List.map_cons, List.map_map, List.flatMap_cons,
      naturalBlock_append_zero, htail, ih]

/-- Emitting the first `n` parsed blocks, words swapped, gives back their bytes (41_cipher.md R171, R175). -/
theorem swappedBlocks_flatMap (input : List Byte) (n : Nat) (h : 8 * n ≤ input.length) :
    ((List.range n).map (swappedBlock input)).flatMap swappedBytes = input.take (8 * n) := by
  induction n with
  | zero => rfl
  | succ n ih =>
    rw [List.range_succ, List.map_append, List.flatMap_append, ih (by omega), List.map_singleton,
      List.flatMap_singleton, swappedBytes_swappedBlock input n (by omega), slice, Nat.mul_succ, List.take_add]

/-- Dropping the first recovered block drops its eight bytes (41_cipher.md R175). -/
theorem swappedBytes_flatMap_tail (ps : List WordPair) :
    ps.tail.flatMap swappedBytes = (ps.flatMap swappedBytes).drop 8 := by
  cases ps with
  | nil => rfl
  | cons p ps => exact (List.drop_left' (swappedBytes_length p)).symm

/-- The encryption input without its first block is the plaintext and its padding (41_cipher.md R171). -/
theorem cbcInput_drop (iv : Word64) (pt : List Byte) : (cbcInput iv pt).drop 8 = pt ++ cbcPad pt.length := by
  rw [cbcInput, List.append_assoc, List.drop_left' (bytes64_length iv)]

/-- Chained decryption of the bytes of ciphertext blocks (41_cipher.md R174, R175). -/
theorem decChain_flatMap (S : List Word32) (r : Nat) (cs : List WordPair) :
    decChain S r (cs.flatMap naturalBytes) = ((decChainBlocks S r ⟨0#32, 0#32⟩ cs).flatMap swappedBytes).drop 8 := by
  have hcount : (cs.flatMap naturalBytes).length / 8 = cs.length := by
    rw [flatMap_length_const _ 8 naturalBytes_length, Nat.mul_div_cancel_left _ (by decide)]
  rw [decChain, hcount, naturalBlocks_flatMap, swappedBytes_flatMap_tail]

/-- DecChain of EncChain is the plaintext and its padding (41_cipher.md R177). -/
theorem decChain_encChain (S : List Word32) (r : Nat) (iv : Word64) (pt : List Byte) :
    decChain S r (encChain S r iv pt) = pt ++ cbcPad pt.length := by
  rw [encChain, decChain_flatMap, decChainBlocks_encChainBlocks, swappedBlocks_flatMap _ _ (cbcInput_length iv pt).ge,
    ← cbcInput_length iv pt, List.take_length, cbcInput_drop]

/-! ## The commands' tests -/

/-- A failing test's error comes first. -/
theorem firstError_cons_fails {c : Check} (cs : List Check) (h : c.fails = true) :
    firstError (c :: cs) = some c.error := by
  rw [firstError_cons, if_pos h]

/-- A passing test leaves the error to the tests after it. -/
theorem firstError_cons_passes {c : Check} {cs : List Check} (h : c.fails = false) :
    firstError (c :: cs) = firstError cs := by
  rw [firstError_cons, h, if_neg Bool.false_ne_true]

/-- CipherCheck's error, if any (41_cipher.md R160; 60_exceptions.md R246). -/
theorem firstError_cipherChecks (s : State) :
    firstError (cipherChecks s) =
      if roundsOf s = 0 then some ⟨.roundsZero, readReg .cipherCfg s⟩
      else if keyLenOf s = 0 then some ⟨.keylenZero, readReg .cipherCfg s⟩
      else if keyLenOf s % 4 ≠ 0 then some ⟨.keylenNotMult4, readReg .cipherCfg s⟩
      else if 65536 < s.keyAddr.toNat + keyLenOf s then some ⟨.keyRange, s.keyAddr⟩ else none := by
  simp only [cipherChecks, firstError_cons, firstError_nil, cfgRounds_eq, cfgKeyLen_eq, keyOff, beq_iff_eq,
    bne_iff_ne, Bool.not_eq_true', inRange_eq_false, readReg]

/-- Every cipher command begins with CipherCheck (41_cipher.md R160). -/
theorem commandChecks_cipher (i : Instr) (s : State) (h : i ∈ [Instr.keyexp, .encblk, .decblk, .enccbc, .deccbc]) :
    ∃ later, commandChecks i s = cipherChecks s ++ later := by
  simp only [List.mem_cons, List.not_mem_nil, or_false] at h
  rcases h with rfl | rfl | rfl | rfl | rfl
  · exact ⟨_, rfl⟩
  · exact ⟨[], (List.append_nil _).symm⟩
  · exact ⟨[], (List.append_nil _).symm⟩
  · exact ⟨_, rfl⟩
  · exact ⟨_, rfl⟩

/-- An error of CipherCheck is the error of the command (60_exceptions.md R246). -/
theorem exec_cipherCheck_error (i : Instr) (s : State) (e : Raise)
    (hi : i ∈ [Instr.keyexp, .encblk, .decblk, .enccbc, .deccbc]) (h : firstError (cipherChecks s) = some e) :
    exec i s = failed (causeCode e.cause) (causeNumber e.cause) e.info s := by
  obtain ⟨later, hchecks⟩ := commandChecks_cipher i s hi
  exact exec_error i s e (by rw [hchecks, firstError_append, h])

/-- With CipherCheck passed, the error of the later tests is the error of the command (60_exceptions.md R246). -/
theorem exec_laterCheck_error (i : Instr) (s : State) (later : List Check) (e : Raise) (hlegal : cipherLegal s)
    (hi : commandChecks i s = cipherChecks s ++ later) (h : firstError later = some e) :
    exec i s = failed (causeCode e.cause) (causeNumber e.cause) e.info s :=
  exec_error i s e (by rw [hi, firstError_cipher s later hlegal, h])

/-- OVERLAP with the key holds exactly where the destination shares a byte with it (60_exceptions.md R247). -/
theorem keyOverlapCheck_fails (n : Nat) (s : State) :
    (keyOverlapCheck n s).fails = true ↔ rangesMeet s.dstAddr.toNat n s.keyAddr.toNat (keyLenOf s) := by
  rw [keyOverlapCheck, overlaps_iff, cfgKeyLen_eq, dstOff, keyOff]

/-- OVERLAP with the key passes exactly where the destination shares no byte with it (60_exceptions.md R247). -/
theorem keyOverlapCheck_passes (n : Nat) (s : State) :
    (keyOverlapCheck n s).fails = false ↔ ¬ rangesMeet s.dstAddr.toNat n s.keyAddr.toNat (keyLenOf s) := by
  rw [← keyOverlapCheck_fails, Bool.not_eq_true]

/-- An overlap with the source or with the key reports the same error (60_exceptions.md R247). -/
theorem firstError_overlaps (n : Nat) (s : State)
    (h : rangesMeet s.dstAddr.toNat n s.srcAddr.toNat s.srcLen.toNat ∨
      rangesMeet s.dstAddr.toNat n s.keyAddr.toNat (keyLenOf s)) :
    firstError [srcOverlapCheck n s, keyOverlapCheck n s] = some ⟨.overlap, s.dstAddr⟩ := by
  by_cases hsrc : rangesMeet s.dstAddr.toNat n s.srcAddr.toNat s.srcLen.toNat
  · exact firstError_cons_fails _ ((srcOverlapCheck_fails n s).2 hsrc)
  · exact (firstError_cons_passes ((srcOverlapCheck_passes n s).2 hsrc)).trans
      (firstError_cons_fails [] ((keyOverlapCheck_fails n s).2 (h.resolve_left hsrc)))

/-- CT_LEN_NOT_MULT8 passes exactly on whole blocks (41_cipher.md R176). -/
theorem ctLenCheck_passes (s : State) : (ctLenCheck s).fails = false ↔ s.srcLen.toNat % 8 = 0 := by
  simp only [ctLenCheck, bne_eq_false_iff_eq, srcLength]

/-- CT_LEN_NOT_MULT8 holds exactly on a source that is not whole blocks (41_cipher.md R176). -/
theorem ctLenCheck_fails (s : State) : (ctLenCheck s).fails = true ↔ s.srcLen.toNat % 8 ≠ 0 := by
  rw [Ne, ← ctLenCheck_passes, Bool.not_eq_false]

/-! ## The operands in the words of the claims -/

theorem stateSchedule_eq (s : State) : stateSchedule s = scheduleOf s := by
  rw [stateSchedule, keyBytes, cfgRounds_eq, cfgKeyLen_eq, keyOff, scheduleOf]

theorem outputLength_keyexp (s : State) : outputLength .keyexp s = 8 * (roundsOf s + 1) := by
  simp only [outputLength, schedWords, cfgRounds_eq]
  omega

theorem outputBytes_keyexp (s : State) : outputBytes .keyexp s = (scheduleOf s).flatMap bytes32 := by
  rw [outputBytes, stateSchedule_eq]

theorem outputBytes_enccbc (s : State) :
    outputBytes .enccbc s = encChain (scheduleOf s) (roundsOf s) s.iv (sourceOf s) := by
  rw [outputBytes, stateSchedule_eq, cfgRounds_eq, srcBytes, srcOff, srcLength, sourceOf]

theorem outputBytes_deccbc (s : State) : outputBytes .deccbc s = decChain (scheduleOf s) (roundsOf s) (sourceOf s) := by
  rw [outputBytes, stateSchedule_eq, cfgRounds_eq, srcBytes, srcOff, srcLength, sourceOf]

/-! ## The commands' successes -/

/-- KEYEXP succeeds exactly on legal operands (41_cipher.md R167). -/
theorem keyexp_passes (s : State) (hlegal : cipherLegal s) :
    firstError (commandChecks .keyexp s) = none ↔
      s.dstAddr.toNat + 8 * (roundsOf s + 1) ≤ 65536 ∧
        ¬ rangesMeet s.dstAddr.toNat (8 * (roundsOf s + 1)) s.keyAddr.toNat (keyLenOf s) := by
  rw [commandChecks, firstError_cipher s _ hlegal, firstError_eq_none, outputLength_keyexp]
  simp only [List.forall_mem_cons, dstRangeCheck_passes, keyOverlapCheck_passes, List.not_mem_nil, false_implies,
    implies_true, and_true]

/-- ENCCBC succeeds exactly on legal operands (41_cipher.md R173). -/
theorem enccbc_passes (s : State) (hlegal : cipherLegal s) :
    firstError (commandChecks .enccbc s) = none ↔
      s.srcAddr.toNat + s.srcLen.toNat ≤ 65536 ∧ s.dstAddr.toNat + (16 + 8 * (s.srcLen.toNat / 8)) ≤ 65536 ∧
        ¬ rangesMeet s.dstAddr.toNat (16 + 8 * (s.srcLen.toNat / 8)) s.srcAddr.toNat s.srcLen.toNat ∧
        ¬ rangesMeet s.dstAddr.toNat (16 + 8 * (s.srcLen.toNat / 8)) s.keyAddr.toNat (keyLenOf s) := by
  rw [commandChecks, firstError_cipher s _ hlegal, firstError_eq_none]
  simp only [List.forall_mem_cons, srcRangeCheck_passes, dstRangeCheck_passes, srcOverlapCheck_passes,
    keyOverlapCheck_passes, outputLength, encCbcLen, srcLength, List.not_mem_nil, false_implies, implies_true, and_true]

/-- DECCBC succeeds exactly on legal operands (41_cipher.md R176). -/
theorem deccbc_passes (s : State) (hlegal : cipherLegal s) :
    firstError (commandChecks .deccbc s) = none ↔
      s.srcAddr.toNat + s.srcLen.toNat ≤ 65536 ∧ s.srcLen.toNat % 8 = 0 ∧
        s.dstAddr.toNat + (s.srcLen.toNat - 8) ≤ 65536 ∧
        ¬ rangesMeet s.dstAddr.toNat (s.srcLen.toNat - 8) s.srcAddr.toNat s.srcLen.toNat ∧
        ¬ rangesMeet s.dstAddr.toNat (s.srcLen.toNat - 8) s.keyAddr.toNat (keyLenOf s) := by
  rw [commandChecks, firstError_cipher s _ hlegal, firstError_eq_none]
  simp only [List.forall_mem_cons, srcRangeCheck_passes, ctLenCheck_passes, dstRangeCheck_passes,
    srcOverlapCheck_passes, keyOverlapCheck_passes, outputLength, decCbcLen, srcLength, List.not_mem_nil,
    false_implies, implies_true, and_true]

/-- The success of a cipher command with an output: the buffer takes the output bytes, OUT_LEN their number, the command
ends, and nothing else changes (10_state.md R46; 60_exceptions.md R250). -/
theorem exec_writes_output (i : Instr) (s : State) (hi : i ∈ [Instr.keyexp, .enccbc, .deccbc]) (hwf : Memory.wf s.buf)
    (hpass : firstError (commandChecks i s) = none) :
    bufferHolds (commandEffect i s).finish.buf s.buf s.dstAddr.toNat (outputBytes i s) ∧
      (outputBytes i s).length = outputLength i s ∧
      { (commandEffect i s).finish with buf := s.buf } =
        { s with outLen := BitVec.ofNat 64 (outputLength i s), phase := .idle, done := true } := by
  refine ⟨?_, outputBytes_length i s hpass, ?_⟩
  · rw [State.finish_buf, commandEffect_buf]
    refine bufferHolds_bufWrite s.buf hwf _ _ ?_
    rw [outputBytes_length i s hpass]
    exact output_inRange i s hpass (List.mem_cons_of_mem _ hi)
  · simp only [List.mem_cons, List.not_mem_nil, or_false] at hi
    rcases hi with rfl | rfl | rfl <;> rfl

/-- `s` at the end of a block command with the result `p` in BLK_A and BLK_B (41_cipher.md R168, R169). -/
def State.finishBlock (s : State) (p : WordPair) : State :=
  { s with blkA := p.a, blkB := p.b, phase := .idle, done := true }

/-- The success of ENCBLK (41_cipher.md R168). -/
theorem exec_encblk (s : State) (h : cipherLegal s) :
    exec .encblk s = .next (s.finishBlock (encryptBlock (scheduleOf s) (roundsOf s) ⟨s.blkA, s.blkB⟩)) := by
  rw [exec_success .encblk s ((cipherChecks_pass s).2 h), ← stateSchedule_eq, ← cfgRounds_eq]
  rfl

/-- The success of DECBLK (41_cipher.md R169). -/
theorem exec_decblk (s : State) (h : cipherLegal s) :
    exec .decblk s = .next (s.finishBlock (decryptBlock (scheduleOf s) (roundsOf s) ⟨s.blkA, s.blkB⟩)) := by
  rw [exec_success .decblk s ((cipherChecks_pass s).2 h), ← stateSchedule_eq, ← cfgRounds_eq]
  rfl

/-- ENCBLK on the block a block command left: same key, same configuration (41_cipher.md R168). -/
theorem exec_encblk_finishBlock (s : State) (h : cipherLegal s) (p : WordPair) :
    exec .encblk (s.finishBlock p) = .next (s.finishBlock (encryptBlock (scheduleOf s) (roundsOf s) p)) :=
  exec_encblk (s.finishBlock p) h

/-- DECBLK on the block a block command left: same key, same configuration (41_cipher.md R169). -/
theorem exec_decblk_finishBlock (s : State) (h : cipherLegal s) (p : WordPair) :
    exec .decblk (s.finishBlock p) = .next (s.finishBlock (decryptBlock (scheduleOf s) (roundsOf s) p)) :=
  exec_decblk (s.finishBlock p) h

/-! ## DECCBC on the output of ENCCBC -/

/-- A range that shares no byte with what was written reads as before. -/
theorem bufRead_of_bufferHolds_disjoint (t m : Memory) (a : Nat) (bs : List Byte) (off n : Nat)
    (h : bufferHolds t m a bs) (hd : ¬ rangesMeet a bs.length off n) : bufRead t off n = bufRead m off n := by
  refine bufRead_congr t m off n fun k hk => h.2 _ ?_
  by_contra hin
  exact hd ⟨off + k, by omega, by omega, by omega, by omega⟩

/-- The state `t` set up for DECCBC: the source is what the last command wrote at `src`, the destination is `d`, and the
command executes (41_cipher.md R177). -/
def State.recover (t : State) (src d : Word64) : State :=
  { t with srcAddr := src, srcLen := t.outLen, dstAddr := d, phase := .busy, done := false }

/-- After a success OUT_LEN is the output length (10_state.md R46). -/
theorem commandEffect_outLen_toNat (i : Instr) (s : State) (hi : i ∈ [Instr.digest, .keyexp, .enccbc, .deccbc])
    (hpass : firstError (commandChecks i s) = none) : (commandEffect i s).outLen.toNat = outputLength i s := by
  have hle := output_inRange i s hpass hi
  rw [commandEffect_outLen i s hi, BitVec.toNat_ofNat]
  omega

section Recover

variable (s : State) (d : Word64)

/-- ENCCBC leaves the key's bytes, and so its schedule, as they were (41_cipher.md R173). -/
theorem scheduleOf_recover (hwf : Memory.wf s.buf) (hpass : firstError (commandChecks .enccbc s) = none) :
    scheduleOf ((commandEffect .enccbc s).finish.recover s.dstAddr d) = scheduleOf s := by
  obtain ⟨hholds, hlen, -⟩ := exec_writes_output .enccbc s (by decide) hwf hpass
  have hkey := check_passes .enccbc s (keyOverlapCheck (outputLength .enccbc s) s) hpass (by simp [commandChecks])
  rw [keyOverlapCheck_passes, ← hlen] at hkey
  exact congrArg (expandKey · (roundsOf s)) (bufRead_of_bufferHolds_disjoint _ _ _ _ _ _ hholds hkey)

/-- The source set up for DECCBC is the ciphertext ENCCBC wrote (41_cipher.md R177). -/
theorem sourceOf_recover (hwf : Memory.wf s.buf) (hpass : firstError (commandChecks .enccbc s) = none) :
    sourceOf ((commandEffect .enccbc s).finish.recover s.dstAddr d) =
      encChain (scheduleOf s) (roundsOf s) s.iv (sourceOf s) := by
  obtain ⟨hholds, hlen, -⟩ := exec_writes_output .enccbc s (by decide) hwf hpass
  have hsrc : sourceOf ((commandEffect .enccbc s).finish.recover s.dstAddr d) =
      bufRead (commandEffect .enccbc s).finish.buf s.dstAddr.toNat (outputBytes .enccbc s).length := by
    rw [hlen, ← commandEffect_outLen_toNat .enccbc s (by decide) hpass]
    rfl
  rw [hsrc, bufRead_of_bufferHolds _ _ _ _ hholds, outputBytes_enccbc]

/-- What DECCBC writes on the output of ENCCBC: the plaintext and its padding (41_cipher.md R177). -/
theorem outputBytes_recover (hwf : Memory.wf s.buf) (hpass : firstError (commandChecks .enccbc s) = none) :
    outputBytes .deccbc ((commandEffect .enccbc s).finish.recover s.dstAddr d) =
      sourceOf s ++ cbcPad (sourceOf s).length := by
  rw [outputBytes_deccbc, scheduleOf_recover s d hwf hpass, sourceOf_recover s d hwf hpass]
  exact decChain_encChain _ _ _ _

/-- The length of the source set up for DECCBC (10_state.md R46). -/
theorem srcLen_recover (hpass : firstError (commandChecks .enccbc s) = none) :
    ((commandEffect .enccbc s).finish.recover s.dstAddr d).srcLen.toNat = 16 + 8 * (s.srcLen.toNat / 8) :=
  commandEffect_outLen_toNat .enccbc s (by decide) hpass

/-- DECCBC's tests pass on the output of ENCCBC, for a destination in range that meets neither that output nor the key
(41_cipher.md R176, R177). -/
theorem deccbc_passes_recover (hlegal : cipherLegal s) (hpass : firstError (commandChecks .enccbc s) = none)
    (hdst : d.toNat + 8 * (s.srcLen.toNat / 8 + 1) ≤ 65536)
    (hsrc : ¬ rangesMeet d.toNat (8 * (s.srcLen.toNat / 8 + 1)) s.dstAddr.toNat (16 + 8 * (s.srcLen.toNat / 8)))
    (hkey : ¬ rangesMeet d.toNat (8 * (s.srcLen.toNat / 8 + 1)) s.keyAddr.toNat (keyLenOf s)) :
    firstError (commandChecks .deccbc ((commandEffect .enccbc s).finish.recover s.dstAddr d)) = none := by
  have hrange : s.dstAddr.toNat + (16 + 8 * (s.srcLen.toNat / 8)) ≤ 65536 := output_inRange .enccbc s hpass (by decide)
  have hlen : 16 + 8 * (s.srcLen.toNat / 8) - 8 = 8 * (s.srcLen.toNat / 8 + 1) := by omega
  refine (deccbc_passes (((commandEffect .enccbc s).finish).recover s.dstAddr d) hlegal).2 ?_
  rw [srcLen_recover s d hpass, hlen]
  exact ⟨hrange, by omega, hdst, hsrc, hkey⟩

/-- What DECCBC on the output of ENCCBC leaves in OUT_LEN: the plaintext and its padding, counted (10_state.md R46). -/
theorem outLen_recover (hpass : firstError (commandChecks .enccbc s) = none)
    (hpass' : firstError (commandChecks .deccbc ((commandEffect .enccbc s).finish.recover s.dstAddr d)) = none) :
    (commandEffect .deccbc ((commandEffect .enccbc s).finish.recover s.dstAddr d)).outLen.toNat =
      8 * (s.srcLen.toNat / 8 + 1) := by
  rw [commandEffect_outLen_toNat .deccbc _ (by decide) hpass', outputLength, decCbcLen, srcLength,
    srcLen_recover s d hpass]
  omega

end Recover

end Sys2Proof.Machine

/-! ## The statements -/

namespace Sys2Proof.Proofs

open Sys2Proof.Machine Sys2Proof.Safety

/-- Settles O11, as the output of a success that `keyexp_passes` allows. -/
theorem keyexpWritesTheSchedule : Obligations.KeyexpWritesTheSchedule := by
  unfold Obligations.KeyexpWritesTheSchedule
  intro s hwf hlegal hdst hkey
  have hpass := (keyexp_passes s hlegal).2 ⟨hdst, hkey⟩
  refine ⟨_, exec_success .keyexp s hpass, ?_⟩
  rw [← outputBytes_keyexp, ← outputLength_keyexp]
  exact exec_writes_output .keyexp s (by decide) hwf hpass

/-- Settles O14, as the output of a success that `enccbc_passes` allows. -/
theorem enccbcWritesTheCiphertext : Obligations.EnccbcWritesTheCiphertext := by
  unfold Obligations.EnccbcWritesTheCiphertext
  intro s hwf hlegal hsrc hdst hsrcMeet hkeyMeet
  have hpass := (enccbc_passes s hlegal).2 ⟨hsrc, hdst, hsrcMeet, hkeyMeet⟩
  refine ⟨_, exec_success .enccbc s hpass, ?_⟩
  rw [← outputBytes_enccbc]
  exact exec_writes_output .enccbc s (by decide) hwf hpass

/-- Settles O15, as the output of a success that `deccbc_passes` allows. -/
theorem deccbcWritesThePlaintext : Obligations.DeccbcWritesThePlaintext := by
  unfold Obligations.DeccbcWritesThePlaintext
  intro s hwf hlegal hsrc hblocks hdst hsrcMeet hkeyMeet
  have hpass := (deccbc_passes s hlegal).2 ⟨hsrc, hblocks, hdst, hsrcMeet, hkeyMeet⟩
  refine ⟨_, exec_success .deccbc s hpass, ?_⟩
  rw [← outputBytes_deccbc]
  exact exec_writes_output .deccbc s (by decide) hwf hpass

/-- Settles O50: by `foldKey_eq` the words are those of the key without its last byte, which only the last word
misses. -/
theorem keyFoldDropsTheLastByte : Obligations.KeyFoldDropsTheLastByte := by
  unfold Obligations.KeyFoldDropsTheLastByte
  intro key hne hmod
  have hpos := List.length_pos_iff.2 hne
  have hword : ∀ j, j < key.length / 4 → (foldKey key).getD j 0#32 = le32 (slice key.dropLast (4 * j) 4) :=
    fun j hj => by simp [foldKey_eq key hmod, hj]
  refine ⟨by simp [foldKey_eq key hmod], fun j hj => ?_, ?_⟩
  · rw [hword j (by omega), slice, slice, List.dropLast_eq_take, List.drop_take, List.take_take,
      show min 4 (key.length - 1 - 4 * j) = 4 by omega]
  · rw [hword _ (by omega), le32_append_zero, slice, slice, List.dropLast_eq_take, List.drop_take, List.take_take,
      show 4 * (key.length / 4 - 1) = key.length - 4 by omega,
      show min 4 (key.length - 1 - (key.length - 4)) = 3 by omega]

/-- Settles O51: the folded key and the number of key words depend on the key without its last byte and on its
length. -/
theorem lastKeyByteHasNoEffect : Obligations.LastKeyByteHasNoEffect := by
  unfold Obligations.LastKeyByteHasNoEffect
  intro key x y r hmod
  have hlen : (key ++ [x]).length = (key ++ [y]).length := by simp
  have hfold : foldKey (key ++ [x]) = foldKey (key ++ [y]) := by
    rw [foldKey_eq _ (by simpa using hmod), foldKey_eq _ (by simpa using hmod), hlen, List.dropLast_concat,
      List.dropLast_concat]
  rw [expandKey, expandKey, hfold, hlen]

/-- Settles O52, from the closed form `schedFrom_getD`. -/
theorem scheduleStartsFromTheConstants : Obligations.ScheduleStartsFromTheConstants := by
  unfold Obligations.ScheduleStartsFromTheConstants
  intro r
  have hclosed : ∀ i, i < 2 * (r + 1) →
      (schedInit (2 * (r + 1))).getD i 0#32 = 0xb7e15163#32 + BitVec.ofNat 32 i * 0x9e3779b9#32 :=
    fun i hi => schedFrom_getD _ i schedSeed hi
  refine ⟨schedFrom_length _ _, hclosed 0 (by omega), fun i h1 hi => ?_, hclosed⟩
  obtain ⟨k, rfl⟩ := Nat.exists_eq_add_of_le' h1
  rw [hclosed (k + 1) hi, Nat.add_sub_cancel, hclosed k (by omega), BitVec.ofNat_add, BitVec.add_mul, BitVec.one_mul,
    BitVec.add_assoc]

/-- Settles O53: each loop of rounds undoes the other, and so do the whitening words. -/
theorem decryptBlockInvertsEncryptBlock : Obligations.DecryptBlockInvertsEncryptBlock := by
  unfold Obligations.DecryptBlockInvertsEncryptBlock
  exact fun S r p => ⟨decryptBlock_encryptBlock S r p, encryptBlock_decryptBlock S r p⟩

/-- Settles O54: the second command runs on the same key and configuration, and its block function undoes the
first's. -/
theorem decblkAfterEncblkRestoresTheBlock : Obligations.DecblkAfterEncblkRestoresTheBlock := by
  unfold Obligations.DecblkAfterEncblkRestoresTheBlock
  intro s hlegal
  refine ⟨⟨_, exec_encblk s hlegal, ?_⟩, ⟨_, exec_decblk s hlegal, ?_⟩⟩
  · rw [exec_decblk_finishBlock s hlegal, decryptBlock_encryptBlock]
    rfl
  · rw [exec_encblk_finishBlock s hlegal, encryptBlock_decryptBlock]
    rfl

/-- Settles O55, with `cbcPad` for the padding. -/
theorem chainedDecryptionInvertsEncryption : Obligations.ChainedDecryptionInvertsEncryption := by
  unfold Obligations.ChainedDecryptionInvertsEncryption
  exact decChain_encChain

/-- Settles O56: DECCBC runs on the state `State.recover` names, where its tests pass and its output is that of
`outputBytes_recover`. -/
theorem deccbcAfterEnccbcRecoversThePlaintext : Obligations.DeccbcAfterEnccbcRecoversThePlaintext := by
  unfold Obligations.DeccbcAfterEnccbcRecoversThePlaintext
  intro s hwf hlegal hsrc hdst hsrcMeet hkeyMeet
  have hpass := (enccbc_passes s hlegal).2 ⟨hsrc, hdst, hsrcMeet, hkeyMeet⟩
  refine ⟨_, exec_success .enccbc s hpass, fun d hd hdSrc hdKey => ?_⟩
  have hpass' := deccbc_passes_recover s d hlegal hpass hd hdSrc hdKey
  have hwf' : Memory.wf ((commandEffect .enccbc s).finish.recover s.dstAddr d).buf := commandEffect_wf .enccbc s hwf
  obtain ⟨hholds, -, -⟩ := exec_writes_output .deccbc _ (by decide) hwf' hpass'
  rw [outputBytes_recover s d hwf hpass, sourceOf, bufRead_length] at hholds
  exact ⟨_, exec_success .deccbc _ hpass', rfl, outLen_recover s d hpass hpass', hholds⟩

/-- Settles O12, as ENCBLK's success on legal operands. -/
theorem encblkEncryptsTheBlock : Obligations.EncblkEncryptsTheBlock := by
  unfold Obligations.EncblkEncryptsTheBlock
  exact exec_encblk

/-- Settles O13, as DECBLK's success on legal operands. -/
theorem decblkDecryptsTheBlock : Obligations.DecblkDecryptsTheBlock := by
  unfold Obligations.DecblkDecryptsTheBlock
  exact exec_decblk

/-- Settles O20: each clause picks one branch of `firstError_cipherChecks`. -/
theorem cipherCommandsCheckRoundsAndKey : Obligations.CipherCommandsCheckRoundsAndKey := by
  unfold Obligations.CipherCommandsCheckRoundsAndKey
  intro i s hi
  have herror := exec_cipherCheck_error i s
  rw [firstError_cipherChecks] at herror
  refine ⟨fun hr => ?_, fun hr hb => ?_, fun hr hmod => ?_, fun hr hb hmod hrange => ?_⟩
  · exact herror ⟨.roundsZero, readReg .cipherCfg s⟩ hi (if_pos hr)
  · exact herror ⟨.keylenZero, readReg .cipherCfg s⟩ hi (by rw [if_neg hr, if_pos hb])
  · exact herror ⟨.keylenNotMult4, readReg .cipherCfg s⟩ hi
      (by rw [if_neg hr, if_neg (by omega), if_pos hmod])
  · exact herror ⟨.keyRange, s.keyAddr⟩ hi (by rw [if_neg hr, if_neg hb, if_neg (not_not.2 hmod), if_pos hrange])

/-- Settles O22: each clause's test is the first of KEYEXP's two later ones that fails. -/
theorem keyexpChecksItsRanges : Obligations.KeyexpChecksItsRanges := by
  unfold Obligations.KeyexpChecksItsRanges
  intro s hlegal
  have herror := fun e => exec_laterCheck_error .keyexp s _ e hlegal rfl
  rw [outputLength_keyexp] at herror
  refine ⟨fun hdst => ?_, fun hdst hmeet => ?_⟩
  · exact herror _ (firstError_cons_fails _ ((dstRangeCheck_fails _ s).2 hdst))
  · exact herror _ ((firstError_cons_passes ((dstRangeCheck_passes _ s).2 hdst)).trans
      (firstError_cons_fails _ ((keyOverlapCheck_fails _ s).2 hmeet)))

/-- Settles O23: each clause's test is the first of ENCCBC's four later ones that fails. -/
theorem enccbcChecksItsRanges : Obligations.EnccbcChecksItsRanges := by
  unfold Obligations.EnccbcChecksItsRanges
  intro s hlegal
  have herror := fun e => exec_laterCheck_error .enccbc s _ e hlegal rfl
  refine ⟨fun hsrc => ?_, fun hsrc hdst => ?_, fun hsrc hdst hmeet => ?_⟩
  · exact herror _ (firstError_cons_fails _ ((srcRangeCheck_fails s).2 hsrc))
  · refine herror ⟨.dstRange, s.dstAddr⟩ ((firstError_cons_passes ((srcRangeCheck_passes s).2 hsrc)).trans ?_)
    exact firstError_cons_fails _ ((dstRangeCheck_fails _ s).2 hdst)
  · refine herror ⟨.overlap, s.dstAddr⟩ ((firstError_cons_passes ((srcRangeCheck_passes s).2 hsrc)).trans ?_)
    exact (firstError_cons_passes ((dstRangeCheck_passes _ s).2 hdst)).trans (firstError_overlaps _ s hmeet)

/-- Settles O24: each clause's test is the first of DECCBC's five later ones that fails. -/
theorem deccbcChecksItsRanges : Obligations.DeccbcChecksItsRanges := by
  unfold Obligations.DeccbcChecksItsRanges
  intro s hlegal
  have herror := fun e => exec_laterCheck_error .deccbc s _ e hlegal rfl
  refine ⟨fun hsrc => ?_, fun hsrc hmod => ?_, fun hsrc hmod hdst => ?_, fun hsrc hmod hdst hmeet => ?_⟩
  · exact herror _ (firstError_cons_fails _ ((srcRangeCheck_fails s).2 hsrc))
  · refine herror ⟨.ctLenNotMult8, s.srcLen⟩ ((firstError_cons_passes ((srcRangeCheck_passes s).2 hsrc)).trans ?_)
    exact firstError_cons_fails _ ((ctLenCheck_fails s).2 hmod)
  · refine herror ⟨.dstRange, s.dstAddr⟩ ((firstError_cons_passes ((srcRangeCheck_passes s).2 hsrc)).trans ?_)
    refine (firstError_cons_passes ((ctLenCheck_passes s).2 hmod)).trans ?_
    exact firstError_cons_fails _ ((dstRangeCheck_fails _ s).2 hdst)
  · refine herror ⟨.overlap, s.dstAddr⟩ ((firstError_cons_passes ((srcRangeCheck_passes s).2 hsrc)).trans ?_)
    refine (firstError_cons_passes ((ctLenCheck_passes s).2 hmod)).trans ?_
    exact (firstError_cons_passes ((dstRangeCheck_passes _ s).2 hdst)).trans (firstError_overlaps _ s hmeet)

end Sys2Proof.Proofs
end

section
/-! PROOFS. The statements about the pseudo-random generator (42_prg.md): the commands' one test and what their
successes leave, sequences that end in a cycle, and Floyd's detection on the generator's sequence. -/

namespace Sys2Proof.Machine

open Sys2Proof.Safety

/-! ## The commands -/

/-- MODULUS_ZERO holds exactly on a modulus of 0 (60_exceptions.md R242). -/
theorem modulusCheck_fails (m : Word64) : (modulusCheck m).fails = true ↔ m = 0#64 := beq_iff_eq

/-- A command whose one test is MODULUS_ZERO fails on a modulus of 0 (42_prg.md R211 to R215). -/
theorem exec_modulusZero (i : Instr) (s : State) (m : Word64) (hchecks : commandChecks i s = [modulusCheck m])
    (hm : m = 0#64) : exec i s = failed 1#8 9#8 0#64 s :=
  exec_firstFailing i s [] (modulusCheck m) [] hchecks (List.forall_mem_nil _) ((modulusCheck_fails m).2 hm)

/-- A command whose one test is MODULUS_ZERO succeeds on any other modulus (42_prg.md R211 to R215). -/
theorem exec_modulusNonzero (i : Instr) (s : State) (m : Word64) (hchecks : commandChecks i s = [modulusCheck m])
    (hm : m ≠ 0#64) : exec i s = .next (commandEffect i s).finish := by
  refine exec_success i s ?_
  rw [hchecks, firstError_eq_none, List.forall_mem_singleton, ← Bool.not_eq_true, modulusCheck_fails]
  exact hm

/-- A completed PRGGEN or PRGGENN: the value `x` in LCG_S and RESULT, BUSY = 0 and DONE = 1 (42_prg.md R212, R213). -/
def State.finishGenerate (s : State) (x : Word64) : State :=
  { s with lcgS := x, result := x, phase := .idle, done := true }

/-- The success of PRGGEN (42_prg.md R212). -/
theorem exec_prggen (s : State) (hm : s.lcgM ≠ 0#64) :
    exec .prggen s = .next (s.finishGenerate (lcgNext s.lcgA s.lcgC s.lcgM s.lcgS)) :=
  exec_modulusNonzero .prggen s s.lcgM rfl hm

/-- The success of PRGGENN (42_prg.md R213). -/
theorem exec_prggenn (s : State) (hm : s.lcgM ≠ 0#64) :
    exec .prggenn s = .next (s.finishGenerate (lcgSteps s.lcgA s.lcgC s.lcgM s.prgN.toNat s.lcgS)) :=
  exec_modulusNonzero .prggenn s s.lcgM rfl hm

/-- Several completions of PRGGEN, at least one, take as many generator steps (42_prg.md R212, R213). -/
theorem execTimes_prggen (n : Nat) (s : State) (hm : s.lcgM ≠ 0#64) :
    execTimes .prggen (n + 1) s = .next (s.finishGenerate (lcgSteps s.lcgA s.lcgC s.lcgM (n + 1) s.lcgS)) := by
  induction n generalizing s with
  | zero => rw [execTimes, exec_prggen s hm]; rfl
  | succ n ih =>
    rw [execTimes, exec_prggen s hm]
    exact ih (s.finishGenerate (lcgNext s.lcgA s.lcgC s.lcgM s.lcgS)) hm

/-- The exact sum of a step fits 128 bits (42_prg.md R210). -/
theorem lcgSum_le (a c s : Word64) : a.toNat * s.toNat + c.toNat ≤ 2 ^ 128 - 2 ^ 64 := by
  have hprod := Nat.mul_le_mul (Nat.le_pred_of_lt a.isLt) (Nat.le_pred_of_lt s.isLt)
  have hc := c.isLt
  norm_num at hprod hc ⊢
  omega

/-! ## Sequences that end in a cycle -/

section Cycle

open Function

variable {α : Type} {f : α → α} {s : α} {mu : Nat}

/-- A value that comes back `d` steps later has period `d`. -/
theorem isPeriodicPt_of_iterate_eq {i d : Nat} (h : f^[i + d] s = f^[i] s) : IsPeriodicPt f d (f^[i] s) := by
  rw [IsPeriodicPt, IsFixedPt, ← iterate_add_apply, Nat.add_comm, h]

/-- `mu` is the tail of the sequence `s`, `f s`, `f (f s)`, …: its values on the cycle are those from index `mu` on
(42_prg.md R216). -/
def IsTail (f : α → α) (s : α) (mu : Nat) : Prop := ∀ n, f^[n] s ∈ periodicPts f ↔ mu ≤ n

/-- A sequence that reaches a cycle has a tail: it stays on the cycle from the first value on it. -/
theorem exists_isTail (h : ∃ n, f^[n] s ∈ periodicPts f) : ∃ mu, IsTail f s mu := by
  classical
  refine ⟨Nat.find h, fun n => ⟨Nat.find_min' h, fun hle => ?_⟩⟩
  obtain ⟨d, rfl⟩ := Nat.exists_eq_add_of_le' hle
  obtain ⟨p, hpos, hp⟩ := Nat.find_spec h
  rw [iterate_add_apply]
  exact ⟨p, hpos, hp.apply_iterate d⟩

/-- The cycle of a sequence is not empty. -/
theorem IsTail.minimalPeriod_pos (ht : IsTail f s mu) : 0 < minimalPeriod f (f^[mu] s) :=
  minimalPeriod_pos_of_mem_periodicPts ((ht mu).2 le_rfl)

/-- Every value on the cycle comes back after the same number of steps. -/
theorem IsTail.minimalPeriod_eq (ht : IsTail f s mu) {n : Nat} (hn : mu ≤ n) :
    minimalPeriod f (f^[n] s) = minimalPeriod f (f^[mu] s) := by
  obtain ⟨d, rfl⟩ := Nat.exists_eq_add_of_le' hn
  rw [iterate_add_apply, minimalPeriod_apply_iterate ((ht mu).2 le_rfl)]

/-- A value that comes back lies on the cycle, and comes back no sooner than after the cycle's length. -/
theorem IsTail.of_iterate_eq (ht : IsTail f s mu) {i d : Nat} (hd : 0 < d) (h : f^[i + d] s = f^[i] s) :
    mu ≤ i ∧ minimalPeriod f (f^[mu] s) ≤ d := by
  have hper := isPeriodicPt_of_iterate_eq h
  have hi := (ht i).1 ⟨d, hd, hper⟩
  exact ⟨hi, ht.minimalPeriod_eq hi ▸ hper.minimalPeriod_le hd⟩

/-- At the first multiple of the cycle's length past the tail, the sequence and the one twice as fast agree
(42_prg.md R216). -/
theorem IsTail.exists_meeting (ht : IsTail f s mu) :
    ∃ k, 1 ≤ k ∧ k ≤ mu + minimalPeriod f (f^[mu] s) ∧ f^[k] s = f^[2 * k] s := by
  set lam := minimalPeriod f (f^[mu] s)
  have hlow : mu < lam * (mu / lam + 1) := Nat.lt_mul_div_succ mu ht.minimalPeriod_pos
  have hhigh : lam * (mu / lam + 1) ≤ mu + lam := Nat.add_le_add_right (Nat.mul_div_le mu lam) lam
  have hper := isPeriodicPt_minimalPeriod f (f^[lam * (mu / lam + 1)] s)
  rw [ht.minimalPeriod_eq hlow.le] at hper
  refine ⟨lam * (mu / lam + 1), Nat.one_le_of_lt hlow, hhigh, ?_⟩
  rw [Nat.two_mul, iterate_add_apply]
  exact (hper.mul_const _).eq.symm

end Cycle

/-! ## The generator's sequence -/

section Sequence

open Function

variable (a c m s : Word64)

/-- The generator's steps are iterates of its step function. -/
theorem lcgSteps_eq_iterate (n : Nat) : lcgSteps a c m n s = (lcgNext a c m)^[n] s := by
  induction n generalizing s with
  | zero => rfl
  | succ n ih => exact ih (lcgNext a c m s)

/-- Every value after the first step is below the modulus (42_prg.md R216). -/
theorem lcgNext_iterate_lt (hm : m ≠ 0#64) (n : Nat) : ((lcgNext a c m)^[n] (lcgNext a c m s)).toNat < m.toNat := by
  rw [← iterate_succ_apply, iterate_succ_apply']
  exact lcgNext_lt a c m _ hm

/-- Of more than `m` values after the first step two are equal, since all are below `m`. -/
theorem lcgNext_exists_repeat (hm : m ≠ 0#64) {n : Nat} (hn : m.toNat < n) :
    ∃ i d, 0 < d ∧ i + d < n ∧
      (lcgNext a c m)^[i + d] (lcgNext a c m s) = (lcgNext a c m)^[i] (lcgNext a c m s) := by
  obtain ⟨i, hi, j, hj, hne, heq⟩ := Finset.exists_ne_map_eq_of_card_lt_of_maps_to
    (s := Finset.range n) (t := Finset.range m.toNat) (by simpa using hn)
    (fun k _ => Finset.mem_coe.2 (Finset.mem_range.2 (lcgNext_iterate_lt a c m s hm k)))
  wlog hlt : i < j generalizing i j
  · exact this j hj i hi hne.symm heq.symm (by omega)
  obtain ⟨d, rfl⟩ := Nat.exists_eq_add_of_le hlt.le
  exact ⟨i, d, by omega, Finset.mem_range.1 hj, BitVec.eq_of_toNat_eq heq.symm⟩

/-- The generator's sequence reaches a cycle: it has a tail (42_prg.md R216). -/
theorem lcgNext_exists_isTail (hm : m ≠ 0#64) : ∃ mu, IsTail (lcgNext a c m) s mu := by
  obtain ⟨i, d, hd, -, heq⟩ := lcgNext_exists_repeat a c m s hm (Nat.lt_succ_self m.toNat)
  exact exists_isTail ⟨i + 1, d, hd, isPeriodicPt_of_iterate_eq (s := lcgNext a c m s) heq⟩

/-- A cycle has at most `m` values (42_prg.md R216). -/
theorem cycle_le (hm : m ≠ 0#64) {x : Word64} (hx : x ∈ periodicPts (lcgNext a c m)) :
    minimalPeriod (lcgNext a c m) x ≤ m.toNat := by
  by_contra! hlt
  obtain ⟨i, d, hd, hid, heq⟩ := lcgNext_exists_repeat a c m x hm hlt
  rw [← minimalPeriod_apply hx] at hid
  have hsame := le_of_lt_minimalPeriod_of_iterate_eq hid heq
  omega

/-- The tail and the cycle together have at most `m + 1` values: all but the seed are below `m` (log 15). -/
theorem tail_add_cycle_le (hm : m ≠ 0#64) {mu : Nat} (ht : IsTail (lcgNext a c m) s mu) :
    mu + minimalPeriod (lcgNext a c m) ((lcgNext a c m)^[mu] s) ≤ m.toNat + 1 := by
  by_contra! hlt
  obtain ⟨i, d, hd, hid, heq⟩ := lcgNext_exists_repeat a c m s hm (Nat.lt_sub_of_add_lt hlt)
  have hback := ht.of_iterate_eq (i := i + 1) hd (by rw [Nat.add_right_comm]; exact heq)
  omega

end Sequence

/-! ## Floyd's detection -/

section Floyd

open Function

variable (a c m s : Word64)

/-- Phase 1 from index `n` on, with fuel up to an index at which the two sequences meet, answers a value at which they
meet, no later than there (42_prg.md R214). -/
theorem floydMeet_eq {k : Nat} (hk : (lcgNext a c m)^[k] s = (lcgNext a c m)^[2 * k] s) (fuel n : Nat)
    (hn : n < k) (hfuel : k ≤ n + fuel) :
    ∃ j, n < j ∧ j ≤ k ∧ (lcgNext a c m)^[j] s = (lcgNext a c m)^[2 * j] s ∧
      floydMeet a c m fuel ((lcgNext a c m)^[n] s) ((lcgNext a c m)^[2 * n] s) = (lcgNext a c m)^[j] s := by
  induction fuel generalizing n with
  | zero => omega
  | succ fuel ih =>
    simp only [floydMeet, ← iterate_succ_apply' (lcgNext a c m)]
    rw [show (2 * n).succ.succ = 2 * (n + 1) by omega]
    split
    case isTrue hmeet => exact ⟨n + 1, Nat.lt_succ_self n, hn, hmeet, rfl⟩
    case isFalse hmeet =>
      have hne : n + 1 ≠ k := by
        rintro rfl
        exact hmeet hk
      obtain ⟨j, hlow, hrest⟩ := ih (n + 1) (by omega) (by omega)
      exact ⟨j, by omega, hrest⟩

/-- Phase 2 from a value on the cycle, `n` steps of its turn already taken, counts the length of the cycle; `hn` says
that the value is on the cycle, since elsewhere the length is 0 (42_prg.md R214). -/
theorem floydCount_eq (x : Word64) (fuel n : Nat)
    (hn : n < minimalPeriod (lcgNext a c m) x) (hfuel : minimalPeriod (lcgNext a c m) x ≤ n + fuel) :
    floydCount a c m x fuel ((lcgNext a c m)^[n] x) n = minimalPeriod (lcgNext a c m) x := by
  induction fuel generalizing n with
  | zero => omega
  | succ fuel ih =>
    simp only [floydCount, ← iterate_succ_apply' (lcgNext a c m)]
    split
    case isTrue hback =>
      have hle : minimalPeriod (lcgNext a c m) x ≤ n + 1 :=
        IsPeriodicPt.minimalPeriod_le (Nat.succ_pos n) hback
      omega
    case isFalse hback =>
      have hne : n + 1 ≠ minimalPeriod (lcgNext a c m) x := by
        intro heq
        rw [Nat.succ_eq_add_one, heq] at hback
        exact hback iterate_minimalPeriod
      exact ih (n + 1) (by omega) (by omega)

/-- Phase 1 meets within the model's bound, on the cycle and after at most as many steps as the tail and the cycle are
long (42_prg.md R216; log 15). -/
theorem floydMeet_on_cycle (hm : m ≠ 0#64) {mu : Nat} (ht : IsTail (lcgNext a c m) s mu) :
    ∃ k, 1 ≤ k ∧ k ≤ mu + minimalPeriod (lcgNext a c m) ((lcgNext a c m)^[mu] s) ∧ mu ≤ k ∧
      (lcgNext a c m)^[k] s = (lcgNext a c m)^[2 * k] s ∧
      floydMeet a c m (m.toNat + 1) s s = (lcgNext a c m)^[k] s := by
  have hle := tail_add_cycle_le a c m s hm ht
  obtain ⟨K, hpos, hK, hmeet⟩ := ht.exists_meeting
  obtain ⟨k, hlow, hkK, hk, heq⟩ := floydMeet_eq a c m s hmeet (m.toNat + 1) 0 (by omega) (by omega)
  obtain ⟨hcycle, -⟩ := ht.of_iterate_eq (i := k) (d := k) hlow (by rw [← Nat.two_mul]; exact hk.symm)
  exact ⟨k, hlow, hkK.trans hK, hcycle, hk, heq⟩

/-- Period is the length of the cycle on which the sequence ends (42_prg.md R216). -/
theorem lcgPeriod_eq (hm : m ≠ 0#64) {mu : Nat} (ht : IsTail (lcgNext a c m) s mu) :
    lcgPeriod a c m s = minimalPeriod (lcgNext a c m) ((lcgNext a c m)^[mu] s) := by
  obtain ⟨k, -, -, hk, -, hmeet⟩ := floydMeet_on_cycle a c m s hm ht
  have hcycle := (ht k).2 hk
  rw [lcgPeriod, hmeet, ← ht.minimalPeriod_eq hk]
  exact floydCount_eq a c m _ m.toNat 0 (minimalPeriod_pos_of_mem_periodicPts hcycle)
    (by rw [Nat.zero_add]; exact cycle_le a c m hm hcycle)

end Floyd

end Sys2Proof.Machine

/-! ## The statements -/

namespace Sys2Proof.Proofs

open Sys2Proof.Machine Sys2Proof.Safety

/-- Settles O18: PRG_N completions of PRGGEN take PRG_N generator steps (`execTimes_prggen`), as one PRGGENN does. -/
theorem prggennIsRepeatedPrggen : Obligations.PrggennIsRepeatedPrggen := by
  unfold Obligations.PrggennIsRepeatedPrggen
  intro s hm
  refine ⟨_, exec_prggenn s hm, fun hn => ?_, fun hn => ?_⟩
  · obtain ⟨k, hk⟩ := Nat.exists_eq_succ_of_ne_zero fun h0 => hn (BitVec.eq_of_toNat_eq h0)
    rw [hk]
    exact execTimes_prggen k s hm
  · have hzero : s.prgN.toNat = 0 := congrArg BitVec.toNat hn
    rw [hzero]
    rfl

/-- Settles O58: the tail is that of `lcgNext_exists_isTail`, Period is the cycle's length (`lcgPeriod_eq`), and
`IsTail.of_iterate_eq` says that no value comes back sooner. -/
theorem periodIsTheCycleLength : Obligations.PeriodIsTheCycleLength := by
  unfold Obligations.PeriodIsTheCycleLength
  intro a c m s hm
  obtain ⟨mu, ht⟩ := lcgNext_exists_isTail a c m s hm
  simp only [lcgPeriod_eq a c m s hm ht, lcgSteps_eq_iterate]
  refine ⟨ht.minimalPeriod_pos, cycle_le a c m hm ((ht mu).2 le_rfl), fun n hn => ?_, mu,
    tail_add_cycle_le a c m s hm ht, fun n hn => ?_, fun n q _ hq hlt heq => ?_, floydMeet_on_cycle a c m s hm ht⟩
  · obtain ⟨k, rfl⟩ := Nat.exists_eq_add_of_le' hn
    exact lcgNext_iterate_lt a c m s hm k
  · rw [← ht.minimalPeriod_eq hn, Nat.add_comm, Function.iterate_add_apply, Function.iterate_minimalPeriod]
  · obtain ⟨-, hle⟩ := ht.of_iterate_eq hq heq
    omega

/-- Settles O16, as PRGLOAD's success on a modulus that is not 0. -/
theorem prgloadConstructsTheGenerator : Obligations.PrgloadConstructsTheGenerator := by
  unfold Obligations.PrgloadConstructsTheGenerator
  exact fun s hm => exec_modulusNonzero .prgload s s.prgM rfl hm

/-- Settles O17: the success of PRGGEN writes the exact value of one step. -/
theorem prggenTakesOneStep : Obligations.PrggenTakesOneStep := by
  unfold Obligations.PrggenTakesOneStep
  exact fun s hm => ⟨_, lcgNext_toNat s.lcgA s.lcgC s.lcgM s.lcgS hm, exec_prggen s hm⟩

/-- Settles O19, as PRGPERIOD's success on a modulus that is not 0. -/
theorem prgperiodWritesThePeriod : Obligations.PrgperiodWritesThePeriod := by
  unfold Obligations.PrgperiodWritesThePeriod
  exact fun s hm => exec_modulusNonzero .prgperiod s s.prgM rfl hm

/-- Settles O25: MODULUS_ZERO is each command's one test, on the modulus the command uses. -/
theorem prgCommandsRefuseAZeroModulus : Obligations.PrgCommandsRefuseAZeroModulus := by
  unfold Obligations.PrgCommandsRefuseAZeroModulus
  intro s
  refine ⟨fun hm => ⟨?_, ?_⟩, fun hm => ⟨?_, ?_⟩⟩
  · exact exec_modulusZero .prgload s s.prgM rfl hm
  · exact exec_modulusZero .prgperiod s s.prgM rfl hm
  · exact exec_modulusZero .prggen s s.lcgM rfl hm
  · exact exec_modulusZero .prggenn s s.lcgM rfl hm

/-- Settles O57: the step is exact, its value below the modulus, and its sum inside 128 bits. -/
theorem generatorStepIsExact : Obligations.GeneratorStepIsExact := by
  unfold Obligations.GeneratorStepIsExact
  exact fun a c m s hm => ⟨lcgNext_toNat a c m s hm, lcgNext_lt a c m s hm, lcgSum_le a c s⟩

end Sys2Proof.Proofs
end

section
/-! PROOFS. The statements about host accesses to the registers and the buffer and about NOP (43_system.md): the step of
a register read and of a register write, and what an operand write leaves in each register. -/

namespace Sys2Proof.Machine

open Sys2Proof.Safety

/-! ## Register accesses -/

/-- No register shows the turns still to come (10_state.md R21; log 1). -/
theorem readReg_setTurns (r : Reg) (s : State) (ts : List Turn) :
    readReg r { s with turns := ts } = readReg r s := by
  cases r <;> rfl

/-- No register shows the bus's last answer (10_state.md R21; log 10). -/
@[simp] theorem readReg_respond (r : Reg) (s : State) (q : Response) : readReg r (s.respond q) = readReg r s := by
  cases r <;> rfl

/-- A read at a register's offset is a read of the register (43_system.md R232). -/
@[simp] theorem hostRegRead_regOffset (r : Reg) (s : State) : hostRegRead (regOffset r) s = readReg r s := by
  simp [hostRegRead]

/-- A write at a register's offset is a write of the register (43_system.md R233). -/
@[simp] theorem hostRegWrite_regOffset (r : Reg) (v : Word64) (s : State) :
    hostRegWrite (regOffset r) v s = writeReg r v s := by
  simp [hostRegWrite]

/-- The step of a register read, in either phase (43_system.md R232; 70_reset_and_hazards.md R289). -/
theorem step_regRead (s : State) (r : Reg) (ts : List Turn) (hturns : s.turns = .host ⟨regOffset r, 8, .read⟩ :: ts) :
    step s = .next { s with turns := ts, resp := .data 8 (readReg r s) } := by
  obtain ⟨hlt, h8⟩ := regOffset_bounds r
  rw [step_host s _ ts hturns, hostAccess_read _ _ hlt h8, hostRegRead_regOffset, readReg_setTurns]
  rfl

/-- The step of a register write, in either phase (43_system.md R233). -/
theorem step_regWrite (s : State) (r : Reg) (v : Word64) (ts : List Turn)
    (hturns : s.turns = .host ⟨regOffset r, 8, .write v⟩ :: ts) :
    step s = .next ((writeReg r v { s with turns := ts }).respond .written) := by
  obtain ⟨hlt, h8⟩ := regOffset_bounds r
  rw [step_host s _ ts hturns, hostAccess_write _ _ _ hlt h8, hostRegWrite_regOffset]

/-! ## Operand writes -/

/-- In IDLE a write to an operand register stores its value (43_system.md R233). -/
theorem writeReg_operand_idle (r : Reg) (v : Word64) (s : State) (ho : isOperandReg r = true) (hp : s.phase = .idle) :
    writeReg r v s = setOperand r v s := by
  cases r with
  | id | ctrl | status | cmd | err | errInfo | lcgA | lcgC | lcgM | lcgS | result | outLen | digestLo | digestHi =>
    cases ho
  | srcAddr | srcLen | dstAddr | keyAddr | cipherCfg | iv | blkA | blkB | prgA | prgC | prgM | prgSeed | prgN =>
    exact if_neg (by simp [hp])

/-- A word cut to its low `n` bits is the word with the bits above them 0. -/
theorem setWidth_setWidth_eq_and (v : Word64) (n : Nat) (hn : n ≤ 64) :
    (v.setWidth n).setWidth 64 = v &&& BitVec.ofNat 64 (2 ^ n - 1) := by
  have hle : 2 ^ n ≤ 2 ^ 64 := Nat.pow_le_pow_right (by decide) hn
  have hpos : 0 < 2 ^ n := Nat.two_pow_pos n
  refine BitVec.eq_of_toNat_eq ?_
  rw [BitVec.toNat_setWidth, BitVec.toNat_setWidth, BitVec.toNat_and, BitVec.toNat_ofNat,
    Nat.mod_eq_of_lt (show 2 ^ n - 1 < 2 ^ 64 by omega), Nat.and_two_pow_sub_one_eq_mod]
  exact Nat.mod_eq_of_lt (Nat.lt_of_lt_of_le (Nat.mod_lt _ hpos) hle)

/-- A stored operand reads as its value restricted to the register's fields (10_state.md R28 to R40). -/
theorem readReg_setOperand_same (r : Reg) (v : Word64) (s : State) (ho : isOperandReg r = true) :
    readReg r (setOperand r v s) = v &&& fieldMask r := by
  cases r with
  | id | ctrl | status | cmd | err | errInfo | lcgA | lcgC | lcgM | lcgS | result | outLen | digestLo | digestHi =>
    cases ho
  | cipherCfg => exact setWidth_setWidth_eq_and v 16 (by decide)
  | blkA | blkB => exact setWidth_setWidth_eq_and v 32 (by decide)
  | srcAddr | srcLen | dstAddr | keyAddr | iv | prgA | prgC | prgM | prgSeed | prgN =>
    exact BitVec.and_allOnes.symm

/-- Storing an operand changes what no other register reads as (43_system.md R233). -/
theorem readReg_setOperand_ne (q r : Reg) (v : Word64) (s : State) (h : q ≠ r) :
    readReg q (setOperand r v s) = readReg q s := by
  cases r with
  | id | ctrl | status | cmd | err | errInfo | lcgA | lcgC | lcgM | lcgS | result | outLen | digestLo | digestHi => rfl
  | srcAddr | srcLen | dstAddr | keyAddr | cipherCfg | iv | blkA | blkB | prgA | prgC | prgM | prgSeed | prgN =>
    cases q <;> first | rfl | exact absurd rfl h

/-- Storing an operand changes neither the buffer nor the model's own fields (43_system.md R233). -/
theorem setOperand_frame (r : Reg) (v : Word64) (s : State) :
    (setOperand r v s).buf = s.buf ∧ (setOperand r v s).turns = s.turns ∧ (setOperand r v s).draws = s.draws := by
  cases r <;> exact ⟨rfl, rfl, rfl⟩

/-! ## Buffer writes -/

/-- Byte `k` of the low `n` bytes of a word, as its bits (00_scope.md R19). -/
theorem bytesOf_getD_eq_extractLsb' {w : Nat} (n : Nat) (v : BitVec w) (k : Nat) (h : k < n) :
    (bytesOf n v).getD k 0#8 = v.extractLsb' (8 * k) 8 := by
  rw [List.getD_eq_getElem?_getD, bytesOf_getElem? n v k h, Option.getD_some]

end Sys2Proof.Machine

/-! ## The statements -/

namespace Sys2Proof.Proofs

open Sys2Proof.Machine Sys2Proof.Safety

/-- Settles O35: in IDLE the write stores the operand, which changes what that register alone reads as. -/
theorem idleOperandWritesKeepTheFields : Obligations.IdleOperandWritesKeepTheFields := by
  unfold Obligations.IdleOperandWritesKeepTheFields
  intro s r v ts hp hr hturns
  have hoperand : ∀ r ∈ [Reg.srcAddr, .srcLen, .dstAddr, .keyAddr, .cipherCfg, .iv, .blkA, .blkB, .prgA, .prgC, .prgM,
      .prgSeed, .prgN], isOperandReg r = true := by decide
  have ho := hoperand r hr
  have hstep := step_regWrite s r v ts hturns
  rw [writeReg_operand_idle r v { s with turns := ts } ho hp] at hstep
  obtain ⟨hbuf, hts, hdraws⟩ := setOperand_frame r v { s with turns := ts }
  refine ⟨_, hstep, ?_, fun q hq => ?_, hbuf, hts, rfl, hdraws⟩
  · rw [readReg_respond, readReg_setOperand_same r v _ ho]
  · rw [readReg_respond, readReg_setOperand_ne q r v _ hq, readReg_setTurns]

/-- Settles O43: the write stores the value's low bytes (`step_bufWrite`), a range inside the buffer. -/
theorem hostBufferWritesStoreTheirBytes : Obligations.HostBufferWritesStoreTheirBytes := by
  unfold Obligations.HostBufferWritesStoreTheirBytes
  intro s a k v ts hwf hp hturns hkind hok
  obtain ⟨-, hb⟩ := bufferAccessOk_bounds a k hok
  obtain ⟨hin, hout⟩ := bufferHolds_bufWrite s.buf hwf k (bytesOf a.width v) (by rwa [bytesOf_length])
  rw [bytesOf_length] at hin hout
  refine ⟨_, step_bufWrite s a k v ts hp hturns hok hkind, rfl, fun i hi => ?_, hout⟩
  exact (hin i hi).trans (bytesOf_getD_eq_extractLsb' a.width v i hi)

/-- Settles O9: NOP has no test and no effect, so its success is the end of a command alone; from reset its word is
accepted and the engine's turn completes it. -/
theorem nopOnlyCompletes : Obligations.NopOnlyCompletes := by
  unfold Obligations.NopOnlyCompletes
  have hnop : ∀ s : State, exec .nop s = .next { s with phase := .idle, done := true } :=
    fun s => exec_success .nop s rfl
  refine ⟨hnop, ?_⟩
  have haccept := step_cmdWrite { State.reset with turns := [.host ⟨0x018, 8, .write 0#64⟩, .engine] } 0#64 _ rfl rfl
  have hcomplete := (step_engine { State.reset.accept 0#64 with turns := [.engine], resp := .written } _ rfl).trans
    (hnop { State.reset.accept 0#64 with turns := [], resp := .written })
  exact ⟨_, (run_next haccept).trans ((run_next hcomplete).trans (run_zero _)), by decide, by decide, by decide⟩

/-- Settles O33, as the step of a register read. -/
theorem registerReadsChangeNothing : Obligations.RegisterReadsChangeNothing := by
  unfold Obligations.RegisterReadsChangeNothing
  exact step_regRead

/-- Settles O36: STATUS stands at 0x010, and its write changes DONE and HAZ alone (`writeStatus_eq`). -/
theorem statusWritesClearByWritingOne : Obligations.StatusWritesClearByWritingOne := by
  unfold Obligations.StatusWritesClearByWritingOne
  intro s v ts hturns
  rw [step_regWrite s .status v ts hturns, writeReg, writeStatus_eq]
  rfl

end Sys2Proof.Proofs
end

section
/-! PROOFS. The statements about exceptions and the command lifecycle (60_exceptions.md): what every turn keeps of the
invariant, what a command that ends with an error leaves, and the acceptance of a command word. -/

namespace Sys2Proof.Machine

open Sys2Proof.Safety

/-! ## The engine's turn -/

/-- With no turn listed the engine acts (log 2). -/
theorem step_noTurns (s : State) (h : s.turns = []) : step s = engineTurn s := by
  simp [step, h]

/-- The completion of an executing word that decodes to a command (60_exceptions.md R252). -/
theorem engineTurn_command (s : State) (i : Instr) (hp : s.phase = .busy) (hd : decode s.cmd = .ok i) :
    engineTurn s = exec i s := by
  simp [engineTurn, hp, fetchCommand, hd]

/-- With no turn waiting the engine is next already (log 2). -/
theorem engineNext_noTurns (s : State) (h : s.turns = []) : s.engineNext = s := by
  simp [State.engineNext, h]

/-- Before the turns waiting the engine's is put first (log 11). -/
theorem engineNext_cons (s : State) (u : Turn) (us : List Turn) (h : s.turns = u :: us) :
    s.engineNext = { s with turns := .engine :: s.turns } := by
  simp [State.engineNext, h]

/-- With the engine's turn put next, the step is the engine's turn (logs 2, 11). -/
theorem step_engineNext (s : State) : step s.engineNext = engineTurn s := by
  cases h : s.turns with
  | nil => rw [engineNext_noTurns s h, step_noTurns s h]
  | cons u us => rw [engineNext_cons s u us h, step_engine _ s.turns rfl]

/-- A run of one step is the step. -/
theorem run_one (s : State) : Host.Core.run core 1 s = step s := by
  cases h : step s with
  | next t => exact (run_next h).trans (run_zero t)
  | fault r | refused r => simp [Host.Core.run, core, h]

/-! ## Errors -/

/-- A completion that leaves an error code where none was is an error completion (60_exceptions.md R248, R250). -/
theorem exec_failed (i : Instr) (s t : State) (hs : s.errCode = 0#8) (h : exec i s = .next t) (ht : t.errCode ≠ 0#8) :
    ∃ e, t = errorCompletion e s := by
  rcases exec_next i s t h with ⟨e, -, rfl⟩ | ⟨-, rfl⟩
  · exact ⟨e, rfl⟩
  · obtain ⟨-, -, -, -, -, hcode, -⟩ := commandEffect_frame i s
    exact absurd (hcode.trans hs) ht

/-- The same of the engine's turn, whatever word it completes (60_exceptions.md R248). -/
theorem engineTurn_failed (s t : State) (hs : s.errCode = 0#8) (h : engineTurn s = .next t) (ht : t.errCode ≠ 0#8) :
    ∃ e, t = errorCompletion e s := by
  rcases engineTurn_cases s with ⟨-, heq⟩ | ⟨i, -, -, heq⟩ | ⟨e, -, -, heq⟩
  · obtain rfl := Host.Outcome.next.inj (heq.symm.trans h)
    exact absurd hs ht
  · exact exec_failed i s t hs (heq.symm.trans h) ht
  · exact ⟨_, Host.Outcome.next.inj (h.symm.trans heq)⟩

/-- An error that a command's own tests report is MALFORMED_INPUT (60_exceptions.md R242, R246). -/
theorem firstError_malformed (i : Instr) (s : State) (e : Raise) (h : firstError (commandChecks i s) = some e) :
    causeCode e.cause = 1#8 := by
  obtain ⟨pre, c, post, hcs, -, rfl, -⟩ := (firstError_eq_some _ _).1 h
  exact commandChecks_malformed i s c (by simp [hcs])

/-- The error of a word that encodes no command has the word as its information (60_exceptions.md R243). -/
theorem decodeRaise_info (e : DecodeError) (v : Word64) : (decodeRaise e v).info = v := by
  cases e <;> rfl

/-! ## What the invariant reads -/

/-- Everything of a state that its invariant speaks of. -/
def invView (s : State) :=
  (s.buf, s.phase, s.done, s.cmd, (s.errCode, s.errCause, s.errInfo), liveGenerator s, s.outLen)

/-- Operand registers are not among it. -/
theorem invView_setOperand (r : Reg) (v : Word64) (s : State) : invView (setOperand r v s) = invView s := by
  cases r <;> rfl

/-- A buffer read changes none of it, in either phase (43_system.md R234; 70_reset_and_hazards.md R288). -/
theorem invView_hostBufRead (k n : Nat) (s : State) : invView (hostBufRead k n s) = invView s := by
  unfold hostBufRead
  split <;> rfl

/-! ## What a successful command leaves in the generator and in OUT_LEN -/

/-- A command whose one test is of the modulus `m` passes it only where `m` is not 0 (60_exceptions.md R242). -/
theorem modulus_ne_zero (i : Instr) (s : State) (m : Word64) (hchecks : commandChecks i s = [modulusCheck m])
    (hpass : firstError (commandChecks i s) = none) : m ≠ 0#64 := by
  have hc := check_passes i s (modulusCheck m) hpass (by simp [hchecks])
  simpa [modulusCheck] using hc

/-- PRGLOAD stores no modulus 0, and PRGGEN and PRGGENN do not step a generator whose modulus is 0: with a zero LCG_M
after a success the generator is the one before it (10_state.md R43; 42_prg.md R211 to R213). -/
theorem commandEffect_noGenerator (i : Instr) (s : State) (hpass : firstError (commandChecks i s) = none)
    (hm : (commandEffect i s).lcgM = 0#64) : liveGenerator (commandEffect i s) = liveGenerator s := by
  cases i with
  | prgload => exact absurd hm (modulus_ne_zero .prgload s s.prgM rfl hpass)
  | prggen => exact absurd hm (modulus_ne_zero .prggen s s.lcgM rfl hpass)
  | prggenn => exact absurd hm (modulus_ne_zero .prggenn s s.lcgM rfl hpass)
  | nop | digest | keyexp | encblk | decblk | enccbc | deccbc | prgperiod => rfl

/-- After a success OUT_LEN is as before, or it counts an output that lies inside the buffer (10_state.md R46). -/
theorem commandEffect_outLen_le (i : Instr) (s : State) (hpass : firstError (commandChecks i s) = none)
    (hs : s.outLen.toNat ≤ Config.bufBytes) : (commandEffect i s).outLen.toNat ≤ Config.bufBytes := by
  by_cases hi : i ∈ [Instr.digest, .keyexp, .enccbc, .deccbc]
  · have hin := output_inRange i s hpass hi
    rw [commandEffect_outLen_toNat i s hi hpass, Config.bufBytes]
    omega
  · obtain ⟨hout, -⟩ := Prod.mk.inj (commandEffect_outLen_buf i s hi)
    rwa [hout]

end Sys2Proof.Machine

namespace Sys2Proof.Safety

open Sys2Proof.Machine

/-! ## The invariant, by what acts -/

/-- The invariant holds of every state that agrees on what it reads. -/
theorem StateInv.congr {s t : State} (h : StateInv s) (hview : invView t = invView s) : StateInv t := by
  simp only [invView, liveGenerator, Prod.mk.injEq] at hview
  obtain ⟨hbuf, hphase, hdone, hcmd, ⟨hcode, hcause, hinfo⟩, ⟨hA, hC, hM, hS⟩, hout⟩ := hview
  constructor
  · rw [hbuf]; exact h.buf_wf
  · rw [hphase, hdone, hcode]; exact h.busy_clean
  · rw [hcode, hcause, hinfo]; exact h.no_error
  · rw [hcode, hcause, hinfo, hcmd]; exact h.err_coded
  · rw [hM, hA, hC, hS]; exact h.no_generator
  · rw [hout]; exact h.out_len

/-- Any canonical buffer may take the place of the one there is. -/
theorem StateInv.setBuf {s : State} (h : StateInv s) {m : Memory} (hm : Memory.wf m) :
    StateInv { s with buf := m } :=
  { h with buf_wf := hm }

/-- Every register at its reset value, with any canonical buffer (70_reset_and_hazards.md R280). -/
theorem stateInv_reset_setBuf (m : Memory) (hm : Memory.wf m) : StateInv { State.reset with buf := m } where
  buf_wf := hm
  busy_clean := nofun
  no_error _ := ⟨rfl, rfl⟩
  err_coded := .inl rfl
  no_generator _ := ⟨rfl, rfl, rfl⟩
  out_len := Nat.zero_le _

/-- A soft reset, whether or not it abandons a command (70_reset_and_hazards.md R282, R283). -/
theorem StateInv.softReset {s : State} (h : StateInv s) : StateInv (softReset s) :=
  (stateInv_reset_setBuf _ (bufScramble_wf _ h.buf_wf _ _ _)).congr rfl

/-- A power-on reset establishes the invariant from any state (70_reset_and_hazards.md R280, R281). -/
theorem stateInv_powerOnReset (s : State) : StateInv (powerOnReset s) :=
  (stateInv_reset_setBuf _ (powerOnBuffer_wf s.draws)).congr rfl

/-- Acceptance clears DONE and every error (60_exceptions.md R251). -/
theorem StateInv.accept {s : State} (h : StateInv s) (v : Word64) : StateInv (s.accept v) :=
  { h with
    busy_clean := fun _ => ⟨rfl, rfl⟩
    no_error := fun _ => ⟨rfl, rfl⟩
    err_coded := .inl rfl }

/-- A STATUS write can clear DONE but not set it (10_state.md R24). -/
theorem StateInv.writeStatus {s : State} (h : StateInv s) (v : Word64) : StateInv (s.writeStatus v) := by
  rw [writeStatus_eq]
  refine { h with busy_clean := fun hp => ?_ }
  obtain ⟨hdone, hcode⟩ := h.busy_clean hp
  exact ⟨by simp [hdone], hcode⟩

/-- Every register write (43_system.md R233). -/
theorem StateInv.writeReg {s : State} (h : StateInv s) (r : Reg) (v : Word64) : StateInv (writeReg r v s) := by
  rcases writeReg_cases r v s with ⟨-, -, heq⟩ | ⟨-, -, heq⟩ | ⟨-, heq⟩ | ⟨-, -, heq⟩ | ⟨-, -, heq⟩ | ⟨-, -, heq⟩ |
      ⟨-, -, -, -, heq⟩
  all_goals rw [heq]
  · exact h.softReset
  · exact h.congr rfl
  · exact h.writeStatus v
  · exact h.accept v
  · exact h.congr (invView_setOperand r v s)
  · exact h.congr rfl
  · exact h

/-- Every write in the register window, reserved offsets included (10_state.md R49; 43_system.md R233). -/
theorem StateInv.hostRegWrite {s : State} (h : StateInv s) (w : Nat) (v : Word64) : StateInv (hostRegWrite w v s) := by
  unfold Machine.hostRegWrite
  cases regAt w with
  | none => exact h
  | some r => exact h.writeReg r v

/-- Every buffer write: dropped while BUSY, stored in IDLE (43_system.md R235; 70_reset_and_hazards.md R287). -/
theorem StateInv.hostBufWrite {s : State} (h : StateInv s) (k n : Nat) (v : Word64) :
    StateInv (hostBufWrite k n v s) := by
  unfold Machine.hostBufWrite
  split
  · exact h.congr rfl
  · exact h.setBuf (bufWrite_wf _ h.buf_wf _ _)

/-- Every host access, a bus error among them (43_system.md R231 to R235; 20_memory.md R77). -/
theorem StateInv.hostAccess {s t : State} (h : StateInv s) (a : Access) (ht : hostAccess a s = .next t) :
    StateInv t := by
  rcases hostAccess_cases a s with ⟨f, -, heq⟩ | ⟨-, heq⟩ | ⟨w, -, -, heq⟩ | ⟨w, v, -, -, heq⟩ | ⟨k, -, -, heq⟩ |
      ⟨k, v, -, -, heq⟩
  all_goals obtain rfl := Host.Outcome.next.inj (heq.symm.trans ht)
  · exact h.congr rfl
  · exact h.congr rfl
  · exact h.congr rfl
  · exact (h.hostRegWrite w v).congr rfl
  · exact h.congr (invView_hostBufRead k a.width s)
  · exact (h.hostBufWrite k a.width v).congr rfl

/-- A command's end with an error, where ILLEGAL_COMMAND is raised with the command word (60_exceptions.md R241 to R243,
R248). -/
theorem StateInv.errorCompletion {s : State} (h : StateInv s) (e : Raise)
    (hinfo : causeCode e.cause = 2#8 → e.info = s.cmd) : StateInv (errorCompletion e s) :=
  { h with
    busy_clean := nofun
    no_error := fun hcode => absurd hcode (causeCode_ne_zero e.cause)
    err_coded := .inr ((cause_coded e.cause).imp_right fun ⟨hcode, hcause⟩ => ⟨hcode, hcause, hinfo hcode⟩) }

/-- A command's end with its effects (60_exceptions.md R250). -/
theorem StateInv.finish_commandEffect {s : State} (h : StateInv s) (i : Instr)
    (hpass : firstError (commandChecks i s) = none) : StateInv (commandEffect i s).finish := by
  obtain ⟨-, -, -, -, hcmd, hcode, hcause, hinfo, -⟩ := commandEffect_frame i s
  constructor
  case buf_wf => exact commandEffect_wf i s h.buf_wf
  case busy_clean => nofun
  case no_error => simpa [hcode, hcause, hinfo] using h.no_error
  case err_coded => simpa [hcode, hcause, hinfo, hcmd] using h.err_coded
  case no_generator =>
    intro hm
    have hgen := commandEffect_noGenerator i s hpass hm
    simp only [liveGenerator, Prod.mk.injEq] at hgen
    obtain ⟨hA, hC, hM, hS⟩ := hgen
    rw [State.finish_lcgA, State.finish_lcgC, State.finish_lcgS, hA, hC, hS]
    exact h.no_generator (hM.symm.trans hm)
  case out_len => exact commandEffect_outLen_le i s hpass h.out_len

/-- Every command's completion (60_exceptions.md R252). -/
theorem StateInv.exec {s t : State} (h : StateInv s) (i : Instr) (ht : exec i s = .next t) : StateInv t := by
  rcases exec_next i s t ht with ⟨e, he, rfl⟩ | ⟨hpass, rfl⟩
  · have hcode := firstError_malformed i s e he
    exact h.errorCompletion e (by simp [hcode])
  · exact h.finish_commandEffect i hpass

/-- Every turn of the engine (60_exceptions.md R252; 70_reset_and_hazards.md R286). -/
theorem StateInv.engineTurn {s t : State} (h : StateInv s) (ht : engineTurn s = .next t) : StateInv t := by
  rcases engineTurn_cases s with ⟨-, heq⟩ | ⟨i, -, -, heq⟩ | ⟨e, -, -, heq⟩
  · exact Host.Outcome.next.inj (heq.symm.trans ht) ▸ h
  · exact h.exec i (heq.symm.trans ht)
  · obtain rfl := Host.Outcome.next.inj (heq.symm.trans ht)
    exact h.errorCompletion _ fun _ => decodeRaise_info e s.cmd

end Sys2Proof.Safety

/-! ## The statements -/

namespace Sys2Proof.Proofs

open Sys2Proof.Machine Sys2Proof.Safety

/-- Settles O59, by the turn that is next: an engine turn, a host access or a power-on event. -/
theorem everyStepKeepsTheInvariant : Obligations.EveryStepKeepsTheInvariant := by
  unfold Obligations.EveryStepKeepsTheInvariant
  intro s t h hstep
  have hpop : StateInv s.popTurn := h.congr rfl
  rcases step_cases s with ⟨-, heq⟩ | ⟨-, -, heq⟩ | ⟨a, -, -, heq⟩ | ⟨-, -, heq⟩ <;> rw [heq] at hstep
  · exact h.engineTurn hstep
  · exact hpop.engineTurn hstep
  · exact hpop.hostAccess a hstep
  · exact Host.Outcome.next.inj hstep ▸ stateInv_powerOnReset s.popTurn

/-- Settles O8: acceptance clears the error code, so the engine's turn ended in an error completion (`engineTurn_failed`),
which changes the lifecycle alone. -/
theorem errorsArePrecise : Obligations.ErrorsArePrecise := by
  unfold Obligations.ErrorsArePrecise
  intro s t v ts hp hturns hrun ht
  rw [run_next (step_cmdWrite s v _ hp hturns), run_one, step_engine _ ts rfl] at hrun
  obtain ⟨e, rfl⟩ := engineTurn_failed _ t rfl hrun ht
  rfl

/-- Settles O4: a step that finds the engine's turn next is that turn, and a busy engine completes the word it decodes. -/
theorem stepRunsTheDecodedCommand : Obligations.StepRunsTheDecodedCommand := by
  unfold Obligations.StepRunsTheDecodedCommand
  refine ⟨fun s i hp hd => ⟨fun hturns => ?_, fun ts hturns => ?_⟩, fun s i => ?_⟩
  · rw [step_noTurns s hturns, engineTurn_command s i hp hd]
  · rw [step_engine s ts hturns, engineTurn_command { s with turns := ts } i hp hd]
  · rw [State.withFetchWord, tableWord_toNat, State.placeCommand, step_engineNext]
    exact engineTurn_command _ i rfl (decode_encode i)

/-- Settles O5: the step of a CMD write in IDLE is the acceptance of its word (`step_cmdWrite`). -/
theorem acceptanceOfACommandWord : Obligations.AcceptanceOfACommandWord := by
  unfold Obligations.AcceptanceOfACommandWord
  intro s v ts hp hturns
  exact ⟨_, step_cmdWrite s v ts hp hturns, rfl, rfl, rfl⟩

end Sys2Proof.Proofs
end

section
/-! PROOFS. The statements about resets and hazards (70_reset_and_hazards.md): which accesses reset CORE or set HAZ, what
they do to it, and that every access is answered and every command completes. -/

namespace Sys2Proof.Machine

open Sys2Proof.Safety

/-! ## The engine's turn -/

/-- An engine turn, in either phase, changes only what a completion may change (10_state.md R50; 60_exceptions.md R252). -/
theorem engineTurn_undo (s t : State) (h : engineTurn s = .next t) : t.undoCompletion s = s := by
  rcases engineTurn_cases s with ⟨-, heq⟩ | ⟨i, -, -, heq⟩ | ⟨e, -, -, heq⟩
  · obtain rfl := Host.Outcome.next.inj (heq.symm.trans h)
    rfl
  · exact exec_keeps (fun u => u.undoCompletion s) i s t (heq.symm.trans h) (fun e => errorCompletion_undo e s)
      (commandEffect_undo i s)
  · obtain rfl := Host.Outcome.next.inj (heq.symm.trans h)
    exact errorCompletion_undo _ s

/-- No engine turn changes HAZ (60_exceptions.md R245). -/
theorem engineTurn_haz (s t : State) (h : engineTurn s = .next t) : t.haz = s.haz :=
  calc t.haz = (t.undoCompletion s).haz := rfl
    _ = s.haz := by rw [engineTurn_undo s t h]

/-- No engine turn changes the turns still to come (log 1). -/
theorem engineTurn_turns (s t : State) (h : engineTurn s = .next t) : t.turns = s.turns :=
  calc t.turns = (t.undoCompletion s).turns := rfl
    _ = s.turns := by rw [engineTurn_undo s t h]

/-- A busy engine's turn completes its command, whatever word it executes (60_exceptions.md R252;
70_reset_and_hazards.md R294). -/
theorem engineTurn_busy (s : State) (hp : s.phase = .busy) :
    ∃ t, engineTurn s = .next t ∧ t.phase = .idle ∧ t.done = true := by
  cases hd : decode s.cmd with
  | error e => exact ⟨_, engineTurn_illegal s e hp hd, rfl, rfl⟩
  | ok i =>
    obtain ⟨t, ht⟩ := exec_completes i s
    exact ⟨t, (engineTurn_command s i hp hd).trans ht, exec_idle_done i s t ht⟩

/-- Every engine turn answers a next state. -/
theorem engineTurn_next (s : State) : ∃ t, engineTurn s = .next t := by
  rcases engineTurn_cases s with ⟨-, h⟩ | ⟨i, -, -, h⟩ | ⟨e, -, -, h⟩
  · exact ⟨_, h⟩
  · exact (exec_completes i s).imp fun _ ht => h.trans ht
  · exact ⟨_, h⟩

/-- Every step answers a next state (70_reset_and_hazards.md R294; 20_memory.md R77). -/
theorem step_next (s : State) : ∃ t, step s = .next t := by
  rcases step_cases s with ⟨-, h⟩ | ⟨-, -, h⟩ | ⟨a, -, -, h⟩ | ⟨-, -, h⟩
  · exact (engineTurn_next s).imp fun _ ht => h.trans ht
  · exact (engineTurn_next s.popTurn).imp fun _ ht => h.trans ht
  · exact (hostAccess_next a s.popTurn).imp fun _ ht => h.trans ht
  · exact ⟨_, h⟩

/-! ## Soft reset -/

/-- A CTRL write with bit 1 set asks for a soft reset (10_state.md R23). -/
theorem isSoftReset_ctrl (v : Word64) : isSoftReset ⟨0x008, 8, .write v⟩ = v.getLsbD 1 := by
  rw [isSoftReset_register_write _ 0x008 v ((busTarget_register 8 8).2 (by decide)) rfl]
  rfl

/-- An access that asks for a soft reset does one, in either phase (70_reset_and_hazards.md R282). -/
theorem hostAccess_softReset (a : Access) (s : State) (h : isSoftReset a = true) :
    hostAccess a s = .next ((softReset s).respond .written) := by
  unfold isSoftReset at h
  split at h
  next w v ht hk =>
    obtain ⟨hr, hv⟩ := Bool.and_eq_true_iff.1 h
    simp only [hostAccess, ht, hk, hostRegWrite, eq_of_beq hr, writeReg, hv, if_true]
  next => cases h

/-- The step of an access that asks for a soft reset. -/
theorem step_softReset (s : State) (a : Access) (ts : List Turn) (hturns : s.turns = .host a :: ts)
    (h : isSoftReset a = true) : step s = .next ((softReset { s with turns := ts }).respond .written) :=
  (step_host s a ts hturns).trans (hostAccess_softReset a _ h)

/-- No host access, a soft reset among them, changes the turns still to come (logs 1 and 20). -/
theorem hostAccess_turns (a : Access) (s t : State) (ht : hostAccess a s = .next t) : t.turns = s.turns := by
  cases hr : isSoftReset a with
  | true =>
    obtain rfl := Host.Outcome.next.inj ((hostAccess_softReset a s hr).symm.trans ht)
    rfl
  | false =>
    rcases hostAccess_no_reset a s hr with ⟨u, heq⟩ | ⟨-, v, heq⟩ | ⟨-, r, v, heq⟩ | ⟨-, m, heq⟩
    all_goals obtain rfl := Host.Outcome.next.inj (heq.symm.trans ht)
    · rfl
    · rfl
    · obtain ⟨-, hts, -⟩ := setOperand_frame r v s
      exact hts
    · rfl

/-- The commands without an output range (10_state.md R46). -/
theorem outputLength_eq_zero (i : Instr) (s : State)
    (h : i ∈ [Instr.nop, .encblk, .decblk, .prgload, .prggen, .prggenn, .prgperiod]) : outputLength i s = 0 := by
  cases i with
  | digest | keyexp | enccbc | deccbc => simp at h
  | nop | encblk | decblk | prgload | prggen | prggenn | prgperiod => rfl

/-- No output length depends on the turns still to come (10_state.md R46; log 1). -/
theorem outputLength_setTurns (i : Instr) (s : State) (ts : List Turn) :
    outputLength i { s with turns := ts } = outputLength i s := by
  cases i <;> rfl

/-- A soft reset that abandons no output range keeps the whole buffer (70_reset_and_hazards.md R283). -/
theorem softReset_buf_of_empty (s : State) (h : (abandonedRange s).2 = 0) : (softReset s).buf = s.buf := by
  rw [softReset_buf, h, bufScramble_zero]

/-- In IDLE a soft reset keeps the buffer (70_reset_and_hazards.md R283). -/
theorem softReset_buf_idle (s : State) (hp : s.phase = .idle) : (softReset s).buf = s.buf :=
  softReset_buf_of_empty s (by rw [abandonedRange_idle s hp])

/-- With a latched word that encodes no command a soft reset keeps the buffer (log 7). -/
theorem softReset_buf_illegal (s : State) (e : DecodeError) (hd : decode s.cmd = .error e) :
    (softReset s).buf = s.buf :=
  softReset_buf_of_empty s (by rw [abandonedRange_error s e hd])

/-- With a latched command that has no output range a soft reset keeps the buffer, in either phase
(70_reset_and_hazards.md R283; log 7). -/
theorem softReset_buf_noOutput (s : State) (i : Instr) (hd : decode s.cmd = .ok i) (h : outputLength i s = 0) :
    (softReset s).buf = s.buf := by
  cases hp : s.phase with
  | idle => exact softReset_buf_idle s hp
  | busy => exact softReset_buf_of_empty s (by rw [abandonedRange_ok s i hp hd, h])

/-- A soft reset keeps the bytes outside the output range of the latched command, whether or not that command is
executing (70_reset_and_hazards.md R283). -/
theorem read_softReset_out (s : State) (hwf : Memory.wf s.buf) (i : Instr) (hd : decode s.cmd = .ok i) (x : Nat)
    (hx : x < s.dstAddr.toNat ∨ s.dstAddr.toNat + outputLength i s ≤ x) :
    Memory.read (softReset s).buf x = Memory.read s.buf x := by
  cases hp : s.phase with
  | idle => rw [softReset_buf_idle s hp]
  | busy =>
    rw [softReset_buf, abandonedRange_ok s i hp hd]
    exact read_bufScramble_out s.buf hwf s.draws _ _ x hx

/-! ## Register writes by their offset -/

/-- The step of any write in the register window, in either phase (43_system.md R233). -/
theorem step_registerWrite (s : State) (a : Access) (v : Word64) (ts : List Turn) (hturns : s.turns = .host a :: ts)
    (hkind : a.kind = .write v) (hok : registerAccessOk a) :
    step s = .next ((hostRegWrite a.off v { s with turns := ts }).respond .written) := by
  rw [step_host s a ts hturns, hostAccess, busTarget_of_registerAccessOk a hok, hkind]

/-- CTRL stands at 0x008, and its write resets or sets IE (10_state.md R23). -/
theorem hostRegWrite_ctrl (v : Word64) (s : State) :
    hostRegWrite 0x008 v s = if v.getLsbD 1 then softReset s else s.writeIe v := rfl

/-- STATUS stands at 0x010 (10_state.md R24). -/
theorem hostRegWrite_status (v : Word64) (s : State) : hostRegWrite 0x010 v s = s.writeStatus v := rfl

/-- A register stands at every offset below the reserved ones (10_state.md R21, R49). -/
theorem regAt_isSome (w : Nat) (h : w < 0xD8) : ∃ r, regAt w = some r := by
  have hlt : w / 8 < registerMap.length := by
    have h27 : registerMap.length = 27 := rfl
    omega
  exact ⟨_, List.getElem?_eq_getElem hlt⟩

/-- The offsets whose writes are dropped while BUSY hold CMD and the operand registers
(10_state.md R21; 70_reset_and_hazards.md R287). -/
theorem regAt_protected (w : Nat) (h8 : w % 8 = 0) (h : w = 0x018 ∨ (0x030 ≤ w ∧ w ≤ 0x090)) :
    ∃ r, regAt w = some r ∧ (r = .cmd ∨ isOperandReg r = true) := by
  obtain ⟨r, hr⟩ := regAt_isSome w (by omega)
  obtain rfl := regOffset_of_regAt w r h8 hr
  have hprotected : ∀ r : Reg, (regOffset r = 0x018 ∨ (0x030 ≤ regOffset r ∧ regOffset r ≤ 0x090)) →
      r = .cmd ∨ isOperandReg r = true := fun r => by cases r <;> decide
  exact ⟨r, hr, hprotected r h⟩

/-- The read-only registers stand at the remaining offsets (10_state.md R21). -/
theorem regAt_readOnly (w : Nat) (r : Reg) (h8 : w % 8 = 0) (hr : regAt w = some r)
    (h : w = 0x000 ∨ w = 0x020 ∨ w = 0x028 ∨ 0x098 ≤ w) :
    r ∉ [Reg.ctrl, .status, .cmd] ∧ isOperandReg r = false := by
  obtain rfl := regOffset_of_regAt w r h8 hr
  have hreadOnly : ∀ r : Reg, (regOffset r = 0x000 ∨ regOffset r = 0x020 ∨ regOffset r = 0x028 ∨ 0x098 ≤ regOffset r) →
      r ∉ [Reg.ctrl, .status, .cmd] ∧ isOperandReg r = false := fun r => by cases r <;> decide
  exact hreadOnly r h

/-- A write to a read-only register or a reserved offset is ignored (10_state.md R49; 43_system.md R233). -/
theorem hostRegWrite_readOnly (w : Nat) (v : Word64) (s : State) (h8 : w % 8 = 0)
    (h : w = 0x000 ∨ w = 0x020 ∨ w = 0x028 ∨ 0x098 ≤ w) : hostRegWrite w v s = s := by
  unfold hostRegWrite
  cases hr : regAt w with
  | none => rfl
  | some r =>
    obtain ⟨hw, ho⟩ := regAt_readOnly w r h8 hr h
    exact writeReg_readOnly r v s hw ho

/-- While BUSY a write to CMD or to an operand register is dropped and sets HAZ (70_reset_and_hazards.md R287). -/
theorem writeReg_protected_busy (r : Reg) (v : Word64) (s : State) (hp : s.phase = .busy)
    (hr : r = .cmd ∨ isOperandReg r = true) : writeReg r v s = s.hazard := by
  rcases writeReg_cases r v s with ⟨rfl, -, -⟩ | ⟨rfl, -, -⟩ | ⟨rfl, -⟩ | ⟨-, hi, -⟩ | ⟨-, hi, -⟩ | ⟨-, -, heq⟩ |
      ⟨-, -, hcmd, ho, -⟩
  · simp [isOperandReg] at hr
  · simp [isOperandReg] at hr
  · simp [isOperandReg] at hr
  · simp [hp] at hi
  · simp [hp] at hi
  · exact heq
  · simp [hcmd, ho] at hr

/-- The same by the write's offset. -/
theorem hostRegWrite_protected_busy (w : Nat) (v : Word64) (s : State) (hp : s.phase = .busy) (h8 : w % 8 = 0)
    (h : w = 0x018 ∨ (0x030 ≤ w ∧ w ≤ 0x090)) : hostRegWrite w v s = s.hazard := by
  obtain ⟨r, hr, hprotected⟩ := regAt_protected w h8 h
  rw [hostRegWrite, hr]
  exact writeReg_protected_busy r v s hp hprotected

/-! ## Buffer accesses while BUSY -/

/-- While BUSY a buffer write is dropped and sets HAZ (70_reset_and_hazards.md R287). -/
theorem hostAccess_bufWrite_busy (a : Access) (k : Nat) (v : Word64) (s : State) (hp : s.phase = .busy)
    (hok : bufferAccessOk a k) (hkind : a.kind = .write v) :
    hostAccess a s = .next (s.hazard.respond .written) := by
  simp [hostAccess, busTarget_of_bufferAccessOk a k hok, hkind, hostBufWrite, hp]

/-- While BUSY a buffer read answers a free value and sets HAZ (70_reset_and_hazards.md R288; log 8). -/
theorem hostAccess_bufRead_busy (a : Access) (k : Nat) (s : State) (hp : s.phase = .busy) (hok : bufferAccessOk a k)
    (hkind : a.kind = .read) :
    hostAccess a s =
      .next { s.hazard with resp := .data a.width (freeValue s.draws a.width), draws := s.draws + 1 } := by
  simp [hostAccess, busTarget_of_bufferAccessOk a k hok, hkind, hostBufRead, hp]

/-- A free value of `n` bytes has no bit above them (70_reset_and_hazards.md R288). -/
theorem freeValue_lt (d n : Nat) : (freeValue d n).toNat < 2 ^ (8 * n) := by
  simpa [freeValue] using le64_lt (bytesOf n (Config.freeWord d))

/-! ## Hazards -/

/-- While BUSY a write to CMD or to an operand register is a hazard (70_reset_and_hazards.md R287). -/
theorem isHazard_protected (a : Access) (s : State) (w : Nat) (v : Word64) (r : Reg) (hp : s.phase = .busy)
    (ht : busTarget a.off a.width = .register w) (hk : a.kind = .write v) (hr : regAt w = some r)
    (hprotected : r = .cmd ∨ isOperandReg r = true) : isHazard a s = true := by
  simp only [isHazard, hp, ht, hk, hr]
  simpa using hprotected

/-- While BUSY every buffer access is a hazard (70_reset_and_hazards.md R287, R288). -/
theorem isHazard_buffer (a : Access) (s : State) (k : Nat) (hp : s.phase = .busy)
    (ht : busTarget a.off a.width = .buffer k) : isHazard a s = true := by
  simp only [isHazard, hp, ht]

@[simp] theorem setOperand_haz (r : Reg) (v : Word64) (s : State) : (setOperand r v s).haz = s.haz := by
  cases r <;> rfl

/-- Of the register writes only the dropped ones set HAZ (43_system.md R233; 70_reset_and_hazards.md R287). -/
theorem writeReg_haz (r : Reg) (v : Word64) (s : State) (hs : s.haz = false)
    (h : s.phase = .busy → ¬ (r = .cmd ∨ isOperandReg r = true)) : (writeReg r v s).haz = false := by
  rcases writeReg_cases r v s with ⟨-, -, heq⟩ | ⟨-, -, heq⟩ | ⟨-, heq⟩ | ⟨-, -, heq⟩ | ⟨-, -, heq⟩ |
      ⟨hprotected, hp, heq⟩ | ⟨-, -, -, -, heq⟩
  all_goals rw [heq]
  · exact softReset_haz s
  · exact hs
  · simp [hs]
  · exact hs
  · rwa [setOperand_haz]
  · exact absurd hprotected (h hp)
  · exact hs

/-- A host access that is no hazard does not set HAZ, a bus error among them (70_reset_and_hazards.md R287, R288;
20_memory.md R77). -/
theorem hostAccess_haz (a : Access) (s t : State) (hs : s.haz = false) (hsafe : isHazard a s = false)
    (ht : hostAccess a s = .next t) : t.haz = false := by
  have hbuffer : ∀ k, busTarget a.off a.width = .buffer k → s.phase ≠ .busy := fun k hT hp => by
    simp [isHazard_buffer a s k hp hT] at hsafe
  rcases hostAccess_cases a s with ⟨f, -, heq⟩ | ⟨-, heq⟩ | ⟨w, -, -, heq⟩ | ⟨w, v, hT, hk, heq⟩ | ⟨k, hT, -, heq⟩ |
      ⟨k, v, hT, -, heq⟩
  all_goals obtain rfl := Host.Outcome.next.inj (heq.symm.trans ht)
  · exact hs
  · exact hs
  · exact hs
  · rw [State.respond_haz, hostRegWrite]
    cases hr : regAt w with
    | none => exact hs
    | some r =>
      refine writeReg_haz r v s hs fun hp hprotected => ?_
      simp [isHazard_protected a s w v r hp hT hk hr hprotected] at hsafe
  · rw [hostBufRead, if_neg (hbuffer k hT)]
    exact hs
  · rw [State.respond_haz, hostBufWrite, if_neg (hbuffer k hT)]
    exact hs

/-- A step that keeps the host's duty does not set HAZ (70_reset_and_hazards.md R287, R288). -/
theorem step_haz (s t : State) (hs : s.haz = false) (hsafe : safeTurn s = true) (ht : step s = .next t) :
    t.haz = false := by
  rcases step_cases s with ⟨-, heq⟩ | ⟨ts, -, heq⟩ | ⟨a, ts, hturns, heq⟩ | ⟨ts, -, heq⟩ <;> rw [heq] at ht
  · exact (engineTurn_haz s t ht).trans hs
  · exact (engineTurn_haz s.popTurn t ht).trans hs
  · have hno : isHazard a s = false := by simpa [safeTurn, hturns] using hsafe
    exact hostAccess_haz a s.popTurn t hs hno ht
  · exact Host.Outcome.next.inj ht ▸ powerOnReset_haz s.popTurn

/-- The duty over `n + 1` turns is the duty of the first and, from where it leads, of the `n` after it. -/
theorem safeTurns_succ (n : Nat) (s t : State) (ht : step s = .next t) :
    safeTurns (n + 1) s = (safeTurn s && safeTurns n t) := by
  simp only [safeTurns, ht]

/-! ## Answers -/

/-- A fault of the host agent is an access that the window map refuses (20_memory.md R77). -/
theorem isBusError_iff (a : Access) : isBusError a = true ↔ ∃ f, busTarget a.off a.width = .refused f := by
  unfold isBusError
  cases busTarget a.off a.width <;> simp

/-- Every access is answered, with an error response exactly where it is refused (20_memory.md R77). -/
theorem hostAccess_resp (a : Access) (s t : State) (ht : hostAccess a s = .next t) :
    t.resp ≠ .none ∧ (isBusError a = true ↔ ∃ f, t.resp = .error f) := by
  rw [isBusError_iff]
  rcases hostAccess_cases a s with ⟨f, hT, heq⟩ | ⟨hT, heq⟩ | ⟨w, hT, -, heq⟩ | ⟨w, v, hT, -, heq⟩ | ⟨k, hT, -, heq⟩ |
      ⟨k, v, hT, -, heq⟩
  all_goals obtain rfl := Host.Outcome.next.inj (heq.symm.trans ht)
  · simp [hT]
  · simp [hT]
  · simp [hT]
  · simp [hT]
  · obtain ⟨x, hx⟩ := hostBufRead_resp k a.width s
    simp [hT, hx]
  · simp [hT]

/-- From a BUSY state, host accesses other than a soft reset and then the engine's turn complete the command
(70_reset_and_hazards.md R294). -/
theorem run_hostAccesses_complete (accs : List Access) (s : State) (rest : List Turn) (hp : s.phase = .busy)
    (hsafe : ∀ a ∈ accs, isSoftReset a = false) (hturns : s.turns = accs.map Turn.host ++ rest)
    (hrest : rest = [] ∨ ∃ ts, rest = .engine :: ts) :
    ∃ t, Host.Core.run core (accs.length + 1) s = .next t ∧ t.phase = .idle ∧ t.done = true ∧ t.turns = rest.tail := by
  obtain ⟨u, hrun⟩ := run_hostAccesses_busy accs 1 s rest hp hsafe hturns
  obtain ⟨t, ht, hidle, hdone⟩ := engineTurn_busy (({ s with turns := rest.tail } : State).hostTouched u) hp
  have hts : t.turns = rest.tail := engineTurn_turns _ t ht
  refine ⟨t, ?_, hidle, hdone, hts⟩
  rw [hrun, run_one]
  rcases hrest with rfl | ⟨ts, rfl⟩
  · exact (step_noTurns _ rfl).trans ht
  · exact (step_engine _ ts rfl).trans ht

end Sys2Proof.Machine

/-! ## The statements -/

namespace Sys2Proof.Proofs

open Sys2Proof.Machine Sys2Proof.Safety

/-- Settles O37: a protected offset's write is dropped (`hostRegWrite_protected_busy`), so is a buffer write; CTRL and
STATUS stand at 0x008 and 0x010; the other offsets ignore writes (`hostRegWrite_readOnly`). -/
theorem writesWhileBusyAreDropped : Obligations.WritesWhileBusyAreDropped := by
  unfold Obligations.WritesWhileBusyAreDropped
  intro s a v ts hturns hkind
  have hwrite := step_registerWrite s a v ts hturns hkind
  refine ⟨fun hp hok hoff => ?_, fun k hp hok => ?_, fun hok hoff hv => ?_, fun hok hoff hv => ?_, fun hok hoff => ?_,
    fun hok hoff => ?_⟩
  · have ⟨_, _, h8⟩ := hok
    rw [hwrite hok, hostRegWrite_protected_busy a.off v { s with turns := ts } hp h8 hoff]
    rfl
  · exact (step_host s a ts hturns).trans (hostAccess_bufWrite_busy a k v _ hp hok hkind)
  · rw [hwrite hok, hoff, hostRegWrite_ctrl, if_neg (by rw [hv]; decide)]
    rfl
  · rw [hoff, hostRegWrite_ctrl, if_pos hv] at hwrite
    exact ⟨_, hwrite hok, rfl, fun r => (readReg_respond r _ _).trans (readReg_softReset r _)⟩
  · rw [hwrite hok, hoff, hostRegWrite_status, writeStatus_eq]
    rfl
  · have ⟨_, _, h8⟩ := hok
    rw [hwrite hok, hostRegWrite_readOnly a.off v _ h8 hoff]
    rfl

/-- Settles O41: the write is a soft reset, which resets every register and frees the abandoned output range alone. -/
theorem softResetClearsTheRegisters : Obligations.SoftResetClearsTheRegisters := by
  unfold Obligations.SoftResetClearsTheRegisters
  intro s v ts hwf hturns hv
  refine ⟨_, step_softReset s _ ts hturns ((isSoftReset_ctrl v).trans hv), fun r => ?_, rfl, rfl, rfl, fun hp => ?_,
    fun e hd => ?_, fun i hd hi => ?_, fun i hd x hx => ?_⟩
  · exact (readReg_respond r _ _).trans (readReg_softReset r _)
  · exact softReset_buf_idle { s with turns := ts } hp
  · exact softReset_buf_illegal { s with turns := ts } e hd
  · exact softReset_buf_noOutput { s with turns := ts } i hd (outputLength_eq_zero i _ hi)
  · exact read_softReset_out { s with turns := ts } hwf i hd x (by rwa [outputLength_setTurns])

/-- Settles O47: each kind of turn answers a next state (`step_next`), each access is answered by its target
(`hostAccess_resp`), and the engine's turn after accesses completes the command (`run_hostAccesses_complete`). -/
theorem everyHostAccessAndEveryCommandCompletes : Obligations.EveryHostAccessAndEveryCommandCompletes := by
  unfold Obligations.EveryHostAccessAndEveryCommandCompletes
  refine ⟨step_next, fun s a ts hturns => ?_, fun accs s ts hp hsafe hturns => ?_⟩
  · obtain ⟨t, ht⟩ := hostAccess_next a { s with turns := ts }
    exact ⟨t, (step_host s a ts hturns).trans ht, hostAccess_turns a _ t ht, hostAccess_resp a _ t ht⟩
  · rcases hturns with hturns | ⟨hturns, rfl⟩
    · exact run_hostAccesses_complete accs s (.engine :: ts) hp hsafe hturns (.inr ⟨ts, rfl⟩)
    · exact run_hostAccesses_complete accs s [] hp hsafe (by rw [hturns, List.append_nil]) (.inl rfl)

/-- Settles O48, by induction on the number of turns: each is taken (`step_next`) and keeps HAZ clear (`step_haz`). -/
theorem dutifulHostsSetNoHazard : Obligations.DutifulHostsSetNoHazard := by
  unfold Obligations.DutifulHostsSetNoHazard
  intro n
  induction n with
  | zero => exact fun s hs _ => ⟨s, run_zero s, hs⟩
  | succ n ih =>
    intro s hs hsafe
    obtain ⟨t, ht⟩ := step_next s
    rw [safeTurns_succ n s t ht, Bool.and_eq_true_iff] at hsafe
    obtain ⟨hfirst, hlater⟩ := hsafe
    rw [run_next ht]
    exact ih t (step_haz s t hs hfirst ht) hlater

/-- Settles O38, as the step of a buffer read while BUSY. -/
theorem bufferReadsWhileBusySetHaz : Obligations.BufferReadsWhileBusySetHaz := by
  unfold Obligations.BufferReadsWhileBusySetHaz
  intro s a k ts hp hturns hkind hok
  have hread := hostAccess_bufRead_busy a k { s with turns := ts } hp hok hkind
  exact ⟨_, _, (step_host s a ts hturns).trans hread, freeValue_lt s.draws a.width, rfl, rfl⟩

/-- Settles O42: a power-on reset's registers (`readReg_powerOnReset`) and its buffer (`powerOnBuffer_wf`). -/
theorem powerOnResetClearsTheRegisters : Obligations.PowerOnResetClearsTheRegisters := by
  unfold Obligations.PowerOnResetClearsTheRegisters
  intro s ts hturns
  exact ⟨_, step_powerOn s ts hturns, fun r => readReg_powerOnReset r _, rfl, rfl, powerOnBuffer_wf s.draws, rfl⟩

/-- Settles O60: the registers are at their reset values, and the buffer lists no byte (`stateInv_reset_setBuf`). -/
theorem resetSatisfiesTheInvariant : Obligations.ResetSatisfiesTheInvariant := by
  unfold Obligations.ResetSatisfiesTheInvariant
  exact stateInv_reset_setBuf [] Memory.nil_wf

end Sys2Proof.Proofs
end
